-- ==== Sys2Proof/Word.lean ====
section
/-! DEFINITION. The word types of the IPT engine: 32-bit registers, 8-bit samples, the canonical sparse memory. -/

namespace Sys2Proof

/-- A register value (R7: register width 32 bits). -/
abbrev Word := BitVec 32

/-- A sample, or one byte of BMEM (R7: sample width 8 bits). -/
abbrev Byte := BitVec 8

/-- The contents of a memory: the entries written since reset, by rising index.
An index that is not listed has not been written since reset (R58), and has no value of its own. -/
abbrev Memory (α : Type) := List (Nat × α)

end Sys2Proof
end

