-- ==== Sys2Proof/Syntax.lean ====
section
/-! DEFINITION. The commands: one constructor per row of spec/opcode_table.json. A command word has no operand fields
(R100): every operand comes from a fixed register (R105). -/

namespace Sys2Proof

/-- The thirteen commands (R103). -/
inductive Instr where
  | neg
  | log
  | gamma
  | thresh
  | hist
  | otsu
  | conv
  | box
  | gauss
  | unsharp
  | sobel
  | resizeNn
  | resizeBl
deriving DecidableEq, Repr

/-- The table's name of a command (R103). -/
def Instr.mnemonic : Instr → String
  | .neg => "NEG"
  | .log => "LOG"
  | .gamma => "GAMMA"
  | .thresh => "THRESH"
  | .hist => "HIST"
  | .otsu => "OTSU"
  | .conv => "CONV"
  | .box => "BOX"
  | .gauss => "GAUSS"
  | .unsharp => "UNSHARP"
  | .sobel => "SOBEL"
  | .resizeNn => "RESIZE_NN"
  | .resizeBl => "RESIZE_BL"

/-- All commands, in the table's order. -/
def Instr.all : List Instr :=
  [.neg, .log, .gamma, .thresh, .hist, .otsu, .conv, .box, .gauss, .unsharp, .sobel, .resizeNn, .resizeBl]

end Sys2Proof
end

