-- ==== Sys2Proof/WellFormed.lean ====
section
/-! DEFINITION. Well-formedness. A command carries no operand (R100), so each of the thirteen is well formed as it
stands; the checks that can fail are those of the command WORD: bits [31:8] zero, and an assigned opcode (R100, R104). -/

namespace Sys2Proof

/-- Every command is well formed: there is no field that could hold an illegal value (R100, R105). -/
def Instr.wellFormed : Instr → Bool
  | .neg | .log | .gamma | .thresh | .hist | .otsu | .conv | .box | .gauss | .unsharp | .sobel | .resizeNn
  | .resizeBl => true

/-- The check on bits [31:8] of a command word: they are 0 (R100). -/
def upperBitsZero (w : Word) : Bool := w.toNat / 256 == 0

/-- The opcodes of R103. -/
def assignedOpcodes : List Nat :=
  [0x01, 0x02, 0x03, 0x04, 0x10, 0x11, 0x20, 0x21, 0x22, 0x23, 0x24, 0x30, 0x31]

/-- The check on bits [7:0] of a command word: the opcode is assigned (R101, R104). -/
def opcodeAssigned (w : Word) : Bool := assignedOpcodes.contains (w.toNat % 256)

/-- A command word is legal when both checks pass (R104). -/
def wordWellFormed (w : Word) : Bool := upperBitsZero w && opcodeAssigned w

end Sys2Proof
end

