-- ==== Sys2Proof/Decode.lean ====
section
/-! DEFINITION. The decoder of command words (R100 to R104), total on all 2^32 words, the encoder, and the printing of a
word (R114). -/

namespace Sys2Proof

/-- Why a word is not a command (R104). -/
inductive DecodeError where
  /-- Bits [31:8] are not all zero. -/
  | upperBitsNonzero
  /-- The opcode in bits [7:0] is not assigned. -/
  | opcodeUnassigned
deriving DecidableEq, Repr

/-- The command an opcode selects (R103). -/
def instrOfOpcode : Nat → Option Instr
  | 0x01 => some .neg
  | 0x02 => some .log
  | 0x03 => some .gamma
  | 0x04 => some .thresh
  | 0x10 => some .hist
  | 0x11 => some .otsu
  | 0x20 => some .conv
  | 0x21 => some .box
  | 0x22 => some .gauss
  | 0x23 => some .unsharp
  | 0x24 => some .sobel
  | 0x30 => some .resizeNn
  | 0x31 => some .resizeBl
  | _ => none

/-- Decoding (R101): first bits [31:8], then the opcode. It reads nothing but the word (R102). -/
def decode (w : Word) : Except DecodeError Instr :=
  if w.toNat / 256 ≠ 0 then .error .upperBitsNonzero
  else match instrOfOpcode (w.toNat % 256) with
    | some i => .ok i
    | none => .error .opcodeUnassigned

/-- The opcode of a command (R103). -/
def opcodeOf : Instr → Nat
  | .neg => 0x01
  | .log => 0x02
  | .gamma => 0x03
  | .thresh => 0x04
  | .hist => 0x10
  | .otsu => 0x11
  | .conv => 0x20
  | .box => 0x21
  | .gauss => 0x22
  | .unsharp => 0x23
  | .sobel => 0x24
  | .resizeNn => 0x30
  | .resizeBl => 0x31

/-- The command word of a command: 24 zero bits, then the opcode (R100). -/
def encode (i : Instr) : Word := BitVec.ofNat 32 (opcodeOf i)

/-- One hexadecimal digit (R114). DESIGN CHOICE (log 22): lower case, which R114 leaves open. -/
def hexDigit (n : Nat) : Char := "0123456789abcdef".toList.getD n '0'

/-- The eight hexadecimal digits of a word, most significant first. -/
def hexWord (w : Word) : String :=
  String.ofList ((List.range 8).map fun i => hexDigit (w.toNat / 16 ^ (7 - i) % 16))

/-- Printing a word (R114): a command by its mnemonic, any other word as `.word 0x<8 hex digits>`. -/
def printWord (w : Word) : String :=
  match decode w with
  | .ok i => i.mnemonic
  | .error _ => ".word 0x" ++ hexWord w

/-- Assembling (R114): the word of a mnemonic. -/
def assemble (m : String) : Option Word := (Instr.all.find? (fun i => i.mnemonic == m)).map encode

/-- The command the decoder reads from the word of a row of spec/opcode_table.json: `nbits` bits of `w`, all bits above
them zero. No command is longer than 32 bits (R100). -/
def decodeTableWord (nbits w : Nat) : Option Instr :=
  if 32 < nbits then none
  else match decode (BitVec.ofNat 32 (w % 2 ^ nbits)) with
    | .ok i => some i
    | .error _ => none

end Sys2Proof
end

