-- ==== Sys2Proof/Config.lean ====
section
/-! DEFINITION. What every instance of the engine fixes (R7, R22), the default of its one open parameter (R6), and the
free values: constants without a body, so that nothing can be proved of what they are. -/

namespace Sys2Proof.Config

/-- The constant of register ID (R22). -/
def idWord : Word := 0x49505401

/-- The largest legal width or height (R7). -/
abbrev maxDim : Nat := 65535

/-- The legal kernel sizes (R7, R106). -/
def kernelSizes : List Nat := [1, 3, 5, 7, 9, 11]

/-- Entries of HMEM (R50). -/
abbrev hmemEntries : Nat := 256

/-- Entries of KMEM (R52). -/
abbrev kmemEntries : Nat := 121

/-- Entries of LUT (R55). -/
abbrev lutEntries : Nat := 256

/-- The largest legal BMEM_BYTES (R6). -/
abbrev bmemBytesMax : Nat := 2 ^ 32

/-- The default of BMEM_BYTES (R6); a state carries its own value. DESIGN CHOICE, log 1. -/
abbrev bmemBytesDefault : Nat := 2 ^ 24

/-- FREE VALUE (R58, 93 U1, U4 and U5; log 2 and 21): what a read of a byte entry that nothing has written since reset
returns, and a result of CONV or OTSU that depends on an unwritten entry. `draw` is the step that reads (log 3), `site` says
which read or result of that step it is, so that no two need agree. -/
opaque freeByte (draw : Nat) (site : List Nat) : Byte

/-- FREE VALUE (R58, R305, 93 U1 and U2; log 2 and 7): as `freeByte`, 32 bits wide. -/
opaque freeWord (draw : Nat) (site : List Nat) : Word

end Sys2Proof.Config
end

