-- ==== Sys2Proof/Machine/State.lean ====
section
/-! DEFINITION. The state of the IPT engine (R20 to R61) as plain data, with the environment the step reads: the host's
transactions, the order of the two agents, and what the ports answered. -/

namespace Sys2Proof.Machine

/-- The border modes of R110; the fourth code of CTRL.BORDER is reserved and selects none. -/
inductive Border where
  | reflect
  | replicate
  | zero
deriving DecidableEq, Repr

/-- The four kinds of error (R271). -/
inductive ErrorKind where
  | invalidBuffer
  | invalidParameter
  | unsupportedChannelCount
  | invalidCommand
deriving DecidableEq, Repr

/-- The two agents (R14). -/
inductive Agent where
  | host
  | engine
deriving DecidableEq, Repr

/-- A host transaction (R71, R72, R310), the reset input (R300), or the script's `wait` (R113). -/
inductive HostTx where
  /-- A read of `bytes` bytes at an offset of the register space. -/
  | regRead (bytes offset : Nat)
  /-- A write of `bytes` bytes at an offset of the register space. -/
  | regWrite (bytes offset : Nat) (value : Word)
  /-- `BmemRead(addr, n)`. -/
  | bmemRead (addr n : Nat)
  /-- `BmemWrite(addr, n, v)`. -/
  | bmemWrite (addr n : Nat) (value : Word)
  /-- Read STATUS until it shows BUSY = 0. -/
  | wait
  /-- `rst` asserted and released. -/
  | rst
deriving DecidableEq, Repr

/-- What a port answers to a transaction. -/
inductive Answer where
  /-- The value a read returns, zero-extended to 32 bits. -/
  | data (value : Word)
  /-- A write was performed, ignored or dropped. -/
  | written
  /-- The error response (R45, R71, R72). -/
  | error
deriving DecidableEq, Repr

/-- STATUS (R24): its fields, at the bits R24 gives them. The other bits have no storage and read 0. -/
structure Status where
  busy    : Bool
  done    : Bool
  err     : Bool
  busyWr  : Bool
  errCode : BitVec 3
deriving DecidableEq, Repr

/-- IRQ_EN (R25): its two enables. -/
structure IrqEn where
  doneIe : Bool
  errIe  : Bool
deriving DecidableEq, Repr

/-- The registers a command takes its operands from: CTRL.BORDER (R23), the descriptor registers (R27 to R32) and the
parameter registers (R33 to R39). Only the host writes them (R46). -/
structure OperandRegs where
  border  : BitVec 2
  srcAddr : Word
  srcW    : Word
  srcH    : Word
  srcC    : Word
  srcLen  : Word
  dstAddr : Word
  newW    : Word
  newH    : Word
  ksize   : Word
  sigma   : Word
  gamma   : Word
  thresh  : Word
  amount  : Word
deriving DecidableEq, Repr

/-- OUT_W, OUT_H, OUT_C, OUT_LEN (R40 to R43). -/
structure OutRegs where
  w   : Word
  h   : Word
  c   : Word
  len : Word
deriving DecidableEq, Repr

/-- The state (R20). From `bmemBytes` on: the model's own fields, which the spec gives no register (log 1, 3, 4, 5). -/
structure State where
  /-- CTRL, the descriptor and the parameter registers. -/
  operands  : OperandRegs
  /-- STATUS. -/
  status    : Status
  /-- IRQ_EN. -/
  irqEn     : IrqEn
  /-- CMD: the last word stored (R26). -/
  cmd       : Word
  /-- OUT_W, OUT_H, OUT_C, OUT_LEN. -/
  out       : OutRegs
  /-- OTSU_T, bits [7:0] (R44). -/
  otsuT     : Byte
  /-- HMEM (R50). -/
  hmem      : Memory Word
  /-- KMEM (R52). -/
  kmem      : Memory Word
  /-- LUT (R55). -/
  lut       : Memory Byte
  /-- BMEM (R70). -/
  bmem      : List Host.Cell
  /-- BMEM_BYTES, the open parameter (R6): no step writes it. -/
  bmemBytes : Nat
  /-- The counter of free values: one draw number per step. -/
  draws     : Nat
  /-- The host's transactions still to come, the next one first. -/
  inbox     : List HostTx
  /-- Who moves at each step at which a command is in flight; when used up, the engine (R131). -/
  schedule  : List Agent
  /-- What the ports answered, newest first. -/
  responses : List Answer
deriving DecidableEq, Repr

/-- The machine never faults: every error the spec describes is a next state (R275) or an error response of a port
(R71, R72), and no state is stuck (R128, R281). So there is no constructor. Safe: nothing stops. -/
inductive Fault
deriving DecidableEq, Repr

/-- Why a step gives an instruction no meaning. -/
inductive Refusal where
  /-- Raised by an arm of `exec` for a command that has no meaning yet (none is left). Safe: the machine stops. -/
  | notModelled (mnemonic : String)
deriving DecidableEq, Repr

/-- STATUS after reset (R60). -/
def Status.reset : Status := ⟨false, false, false, false, 0⟩

/-- The operand registers after reset (R60): all zero, border mode REFLECT. -/
def OperandRegs.reset : OperandRegs := ⟨0, 0, 0, 0, 0, 0, 0, 0, 0, 0, 0, 0, 0, 0⟩

/-- The state after reset (R60, R301): every register 0, every memory unwritten, the engine idle. The model's own fields
are at the values of log 1, 3, 4 and 5. -/
def State.reset : State where
  operands := OperandRegs.reset
  status := Status.reset
  irqEn := ⟨false, false⟩
  cmd := 0
  out := ⟨0, 0, 0, 0⟩
  otsuT := 0
  hmem := []
  kmem := []
  lut := []
  bmem := []
  bmemBytes := Config.bmemBytesDefault
  draws := 0
  inbox := []
  schedule := []
  responses := []

end Sys2Proof.Machine
end

