-- ==== Sys2Proof/Machine/Arith.lean ====
section
/-! DEFINITION. The arithmetic of the pseudocode (R8 to R11): unbounded integers, floor division, rounding half up,
clamping, bit fields. -/

namespace Sys2Proof.Machine

/-- `fdiv(a, b)` of R9, for b > 0: the greatest integer q with q*b <= a. -/
def fdiv (a b : Int) : Int := a / b

/-- `rnd(a / b)` of R10, for b > 0: to nearest, ties up. -/
def rndDiv (a b : Int) : Int := fdiv (2 * a + b) (2 * b)

/-- `clamp(x, lo, hi)` of R9. -/
def clamp (x lo hi : Int) : Int := if x < lo then lo else if x > hi then hi else x

/-- The field `v[hi:lo]` of R8. -/
def field (v : Word) (hi lo : Nat) : Nat := v.toNat / 2 ^ lo % 2 ^ (hi + 1 - lo)

/-- The byte that stores a sample value 0..255. -/
def sampleByte (x : Int) : Byte := BitVec.ofInt 8 x

/-- `#S` of R9 for the set of those n in 1..255 that meet p. -/
def count255 (p : Nat → Bool) : Nat := (List.range' 1 255).countP p

end Sys2Proof.Machine
end

