-- ==== Sys2Proof/Machine/Flags.lean ====
section
/-! DEFINITION. Every change of STATUS (R24), and the interrupt output (R48). No data result sets a flag (R47). -/

namespace Sys2Proof.Machine

/-- The code of an error (R271). -/
def ErrorKind.code : ErrorKind → BitVec 3
  | .invalidBuffer => 1
  | .invalidParameter => 2
  | .unsupportedChannelCount => 3
  | .invalidCommand => 4

/-- STATUS as the register port reads it (R24): BUSY bit 0, DONE bit 1, ERR bit 2, BUSYWR bit 3, ERRCODE bits [10:8]. -/
def Status.word (f : Status) : Word :=
  BitVec.ofNat 32
    (f.busy.toNat + 2 * f.done.toNat + 4 * f.err.toNat + 8 * f.busyWr.toNat + 256 * f.errCode.toNat)

/-- STATUS when a command is accepted (R120); BUSYWR is kept. -/
def Status.accepted (f : Status) : Status := { f with busy := true, done := false, err := false, errCode := 0 }

/-- STATUS at a success completion (R127). -/
def Status.succeeded (f : Status) : Status := { f with busy := false, done := true }

/-- STATUS at an error completion (R275). -/
def Status.failed (e : ErrorKind) (f : Status) : Status := { f with busy := false, err := true, errCode := e.code }

/-- STATUS after the host writes v to it (R24): bits 1, 2, 3 are W1C, bit 2 also clears ERRCODE, the rest has no
effect. Bit 2 is the acknowledgement of an error (R280). -/
def Status.cleared (v : Word) (f : Status) : Status where
  busy := f.busy
  done := f.done && !v.getLsbD 1
  err := f.err && !v.getLsbD 2
  busyWr := f.busyWr && !v.getLsbD 3
  errCode := if v.getLsbD 2 then 0 else f.errCode

/-- STATUS when a host write is dropped (R304). -/
def Status.dropped (f : Status) : Status := { f with busyWr := true }

/-- IRQ_EN as the register port reads it (R25). -/
def IrqEn.word (e : IrqEn) : Word := BitVec.ofNat 32 (2 * e.doneIe.toNat + 4 * e.errIe.toNat)

/-- IRQ_EN after the host writes v to it (R25). -/
def IrqEn.ofWord (v : Word) : IrqEn := ⟨v.getLsbD 1, v.getLsbD 2⟩

/-- The interrupt output (R48, R278): level-sensitive, a function of STATUS and IRQ_EN. -/
def State.irq (s : State) : Bool := (s.status.done && s.irqEn.doneIe) || (s.status.err && s.irqEn.errIe)

end Sys2Proof.Machine
end

