-- ==== Sys2Proof/Machine/Ops.lean ====
section
/-! DEFINITION. The named operations: the sparse memories, the reads that draw a free value where nothing was written,
acceptance and the two completions of a command, the store of an output buffer. -/

namespace Sys2Proof.Machine

/-- The value written last at index a, if any since reset. -/
def Memory.get? {α : Type} : Memory α → Nat → Option α
  | [], _ => none
  | (k, v) :: m, a => if k = a then some v else Memory.get? m a

/-- The entries of consecutive values from index `base` on. -/
def Memory.cells {α : Type} (base : Nat) : List α → Memory α
  | [] => []
  | v :: vs => (base, v) :: Memory.cells (base + 1) vs

/-- `vals` stored at consecutive indices from `base` on; every other entry is kept. It is the one write of every
memory. -/
def Memory.store {α : Type} (m : Memory α) (base : Nat) (vals : List α) : Memory α :=
  m.filter (fun c => c.1 < base) ++ Memory.cells base vals ++ m.filter (fun c => base + vals.length ≤ c.1)

/-- The canonical form: indices strictly rising and below the memory's size. No entry equals what an unlisted index
reads as, since that is no fixed value (R58). -/
abbrev Memory.wf {α : Type} (size : Nat) (m : Memory α) : Prop :=
  (m.map Prod.fst).Pairwise (· < ·) ∧ ∀ c ∈ m, c.1 < size

/-- A read of a byte entry: its value, or a fresh free value if nothing has written it since reset (R58). -/
def State.byteAt (s : State) (m : Memory Byte) (site : List Nat) (a : Nat) : Byte :=
  (Memory.get? m a).getD (Config.freeByte s.draws site)

/-- A read of a 32-bit entry, as `byteAt`. -/
def State.wordAt (s : State) (m : Memory Word) (site : List Nat) (a : Nat) : Word :=
  (Memory.get? m a).getD (Config.freeWord s.draws site)

/-- `MemRead(addr, n)` (R74): little-endian (R73). -/
def State.memRead (s : State) (addr n : Nat) : Nat :=
  ((List.range n).map fun i => (s.byteAt s.bmem [i] (addr + i)).toNat * 2 ^ (8 * i)).sum

/-- The bytes that `MemWrite(addr, n, v)` stores, lowest address first (R74). -/
def bytesOf (n : Nat) (v : Word) : List Byte := (List.range n).map fun i => BitVec.ofNat 8 (v.toNat / 2 ^ (8 * i))

/-- `MemWrite(addr, n, v)` (R74). -/
def State.memWrite (s : State) (addr n : Nat) (v : Word) : State :=
  { s with bmem := Memory.store s.bmem addr (bytesOf n v) }

/-- Command acceptance (R120): the word is stored and becomes the command in flight, whatever it is. -/
def State.accept (w : Word) (s : State) : State := { s with cmd := w, status := s.status.accepted }

/-- TAKING AN ERROR: the error completion (R275). STATUS.ERRCODE, ERR and BUSY change, and nothing else; the failing word
stays in CMD. There is no vector and no handler. -/
def State.takeError (e : ErrorKind) (s : State) : State := { s with status := s.status.failed e }

/-- THE RETURN: acknowledging (R280). A write of v to STATUS; nothing is restored because nothing was changed. -/
def State.acknowledge (v : Word) (s : State) : State := { s with status := s.status.cleared v }

/-- The end of the success completion (R127), after the command's own writes. -/
def State.succeed (s : State) : State := { s with status := s.status.succeeded }

/-- Phases 2 to 4 of a command (R122, R128): the checks either give the operands, which the commit uses, or the error
that is taken. -/
def settle {α : Type} (checks : Except ErrorKind α) (commit : α → State → State) (s : State) : State :=
  match checks with
  | .ok a => (commit a s).succeed
  | .error e => s.takeError e

/-- The samples of an output buffer in the order of R78: sample n is channel n mod C of pixel n / C, row-major. -/
def raster (w h c : Nat) (out : Nat → Nat → Nat → Byte) : List Byte :=
  (List.range (w * h * c)).map fun n => out (n / c % w) (n / c / w) (n % c)

/-- The writes of a buffer-producing command: the destination range (R79) and the result registers (R129). -/
def State.produce (ow oh oc : Nat) (out : Nat → Nat → Nat → Byte) (s : State) : State :=
  { s with
    bmem := Memory.store s.bmem s.operands.dstAddr.toNat (raster ow oh oc out)
    out := ⟨BitVec.ofNat 32 ow, BitVec.ofNat 32 oh, BitVec.ofNat 32 oc, BitVec.ofNat 32 (ow * oh * oc)⟩ }

/-- All 256 entries of the LUT written with the table of f (R56, R142). -/
def State.writeLut (f : Nat → Nat) (s : State) : State :=
  { s with lut := Memory.store s.lut 0 ((List.range 256).map fun v => BitVec.ofNat 8 (f v)) }

/-- All 256 entries of HMEM written with the counts h (R170). -/
def State.writeHmem (h : Nat → Nat) (s : State) : State :=
  { s with hmem := Memory.store s.hmem 0 ((List.range 256).map fun i => BitVec.ofNat 32 (h i)) }

/-- Entries 0 .. size-1 of KMEM written with the coefficients g (R200). -/
def State.writeKmem (size : Nat) (g : Nat → Nat) (s : State) : State :=
  { s with kmem := Memory.store s.kmem 0 ((List.range size).map fun n => BitVec.ofNat 32 (g n)) }

end Sys2Proof.Machine
end

