-- ==== Sys2Proof/Machine/Operands.lean ====
section
/-! DEFINITION. The operands of the commands: the source descriptor and its samples (R77, R78), the grayscale view (R140,
R141), the padded sample (R192, R193), the parameter formats (R106 to R110), and the checks in the order of R123.
Reads of one step are told apart by their `site` (log 16). -/

namespace Sys2Proof.Machine

/-- A buffer descriptor (R77). -/
structure Buf where
  addr : Nat
  w    : Nat
  h    : Nat
  c    : Nat
deriving DecidableEq, Repr

/-- `Bsrc` (R77). -/
def State.src (s : State) : Buf :=
  ⟨s.operands.srcAddr.toNat, s.operands.srcW.toNat, s.operands.srcH.toNat, s.operands.srcC.toNat⟩

/-- The address of a sample (R78). -/
def Buf.sampleAddr (b : Buf) (x y c : Nat) : Nat := b.addr + (y * b.w + x) * b.c + c

/-- `S(B, x, y, c)` (R78). -/
def State.sample (s : State) (b : Buf) (site : List Nat) (x y c : Nat) : Nat :=
  (s.byteAt s.bmem site (b.sampleAddr x y c)).toNat

/-- The luma function (R140). -/
def gray (r g b : Nat) : Nat := (299 * r + 587 * g + 114 * b + 500) / 1000

/-- The grayscale view at (x, y) (R141). -/
def State.grayAt (s : State) (b : Buf) (site : List Nat) (x y : Nat) : Nat :=
  if b.c = 1 then s.sample b (0 :: site) x y 0
  else gray (s.sample b (0 :: site) x y 0) (s.sample b (1 :: site) x y 1) (s.sample b (2 :: site) x y 2)

/-- `bidx(i, n, mode)` (R192); `none` is the mark ZERO. -/
def bidx (i : Int) (n : Nat) (mode : Border) : Option Nat :=
  if 0 ≤ i ∧ i < n then some i.toNat
  else match mode with
    | .replicate => some (clamp i 0 (n - 1)).toNat
    | .zero => none
    | .reflect => if i % (2 * n) < n then some (i % (2 * n)).toNat else some (2 * n - 1 - i % (2 * n)).toNat

/-- The padded sample (R193) of a w x h plane f: `P` when f reads a channel, `Pg` when f is the grayscale view. -/
def padded (w h : Nat) (mode : Border) (f : Nat → Nat → Nat) (x y : Int) : Nat :=
  match bidx x w mode, bidx y h mode with
  | some xi, some yi => f xi yi
  | _, _ => 0

/-- `P(B, x, y, c, mode)` (R193). -/
def State.paddedSample (s : State) (b : Buf) (mode : Border) (site : List Nat) (c : Nat) (x y : Int) : Nat :=
  padded b.w b.h mode (fun xi yi => s.sample b site xi yi c) x y

/-- The weighted sum over the k x k neighbourhood of (x, y) (R194): tap n has weight `wt n` and lies at kernel column
n mod k and row n / k; `plane n` is the padded plane as tap n reads it. The kernel is not flipped. -/
def neighbourSum (k : Nat) (wt : Nat → Int) (plane : Nat → Int → Int → Nat) (x y : Nat) : Int :=
  ((List.range (k * k)).map fun n =>
    wt n * (plane n ((x : Int) + (n % k : Nat) - (k - 1) / 2) ((y : Int) + (n / k : Nat) - (k - 1) / 2) : Int)).sum

/-- CheckSrc (R124). -/
def checkSrc (s : State) : Except ErrorKind Buf :=
  let b := s.src
  let l := s.operands.srcLen.toNat
  if b.c ≠ 1 ∧ b.c ≠ 3 then .error .unsupportedChannelCount
  else if b.w = 0 ∨ b.h = 0 then .error .invalidBuffer
  else if b.w > Config.maxDim ∨ b.h > Config.maxDim then .error .invalidBuffer
  else if l ≠ b.w * b.h * b.c then .error .invalidBuffer
  else if b.addr + l > s.bmemBytes then .error .invalidBuffer
  else .ok b

/-- CheckDst(OW, OH, OC) (R126). -/
def checkDst (s : State) (ow oh oc : Nat) : Except ErrorKind Unit :=
  let d := s.operands.dstAddr.toNat
  let m := ow * oh * oc
  let a := s.operands.srcAddr.toNat
  let l := s.operands.srcLen.toNat
  if d + m > s.bmemBytes then .error .invalidBuffer
  else if d < a + l ∧ a < d + m then .error .invalidBuffer
  else .ok ()

/-- The border mode a code selects (R110); 3 is reserved. -/
def Border.ofBits (b : BitVec 2) : Option Border :=
  if b = 0 then some .reflect else if b = 1 then some .replicate else if b = 2 then some .zero else none

/-- The check of CTRL.BORDER (R110, R191). -/
def checkBorder (s : State) : Except ErrorKind Border :=
  match Border.ofBits s.operands.border with
  | some m => .ok m
  | none => .error .invalidParameter

/-- The check of KSIZE (R106, R196): all 32 bits are compared. -/
def checkKsize (s : State) : Except ErrorKind Nat :=
  if Config.kernelSizes.contains s.operands.ksize.toNat then .ok s.operands.ksize.toNat else .error .invalidParameter

/-- The check of a UQ8.8 parameter (R107): bits [31:16] zero, and a code of at least `least`. The code is the result. -/
def checkUq88 (least : Nat) (p : Word) : Except ErrorKind Nat :=
  if field p 31 16 ≠ 0 then .error .invalidParameter
  else if field p 15 0 < least then .error .invalidParameter
  else .ok (field p 15 0)

/-- The check of SIGMA (R107, R200). -/
def checkSigma (s : State) : Except ErrorKind Nat := checkUq88 1 s.operands.sigma

/-- The check of GAMMA (R107, R146). -/
def checkGamma (s : State) : Except ErrorKind Nat := checkUq88 1 s.operands.gamma

/-- The check of AMOUNT (R107, R201): the code 0 is legal. -/
def checkAmount (s : State) : Except ErrorKind Nat := checkUq88 0 s.operands.amount

/-- The check of THRESH (R108). -/
def checkThresh (s : State) : Except ErrorKind Nat :=
  if s.operands.thresh.toNat ≤ 255 then .ok s.operands.thresh.toNat else .error .invalidParameter

/-- The check of NEW_W or NEW_H (R109). -/
def checkNewDim (p : Word) : Except ErrorKind Nat :=
  if 1 ≤ p.toNat ∧ p.toNat ≤ Config.maxDim then .ok p.toNat else .error .invalidParameter

end Sys2Proof.Machine
end

