-- ==== Sys2Proof/Machine/Gaussian.lean ====
section
/-! DEFINITION. The Gaussian coefficients (R199), computed with an enclosure of the exponentials in fixed point (log 9).
With sigma = Sc / 256, e(dx, dy) = q^(dx^2 + dy^2) for the one number q = exp(-32768 / Sc^2), and
q = exp(1 / (32 * Sc^2))^(-2^20). -/

namespace Sys2Proof.Machine

/-- A closed interval of reals, [lo / 2^128, hi / 2^128]. -/
structure Enclosure where
  lo : Nat
  hi : Nat
deriving DecidableEq, Repr

/-- The number 1 in the fixed point of enclosures. -/
def unit128 : Nat := 2 ^ 128

/-- Division rounded up. -/
def ceilDiv (a b : Nat) : Nat := (a + b - 1) / b

/-- The product of two enclosures of non-negative numbers, rounded outwards. -/
def Enclosure.mul (p q : Enclosure) : Enclosure := ⟨p.lo * q.lo / unit128, ceilDiv (p.hi * q.hi) unit128⟩

/-- The n-th power of an enclosed number. -/
def Enclosure.pow (p : Enclosure) : Nat → Enclosure
  | 0 => ⟨unit128, unit128⟩
  | n + 1 => (Enclosure.pow p n).mul p

/-- An enclosed number squared n times. -/
def Enclosure.squares (p : Enclosure) : Nat → Enclosure
  | 0 => p
  | n + 1 => Enclosure.squares (p.mul p) n

/-- The first t terms of the series of exp(1 / n), as an exact fraction with denominator n^t * t!. -/
def expSeries (n : Nat) : Nat → Nat × Nat
  | 0 => (0, 1)
  | t + 1 => (((expSeries n t).1 + 1) * (n * (t + 1)), (expSeries n t).2 * (n * (t + 1)))

/-- An enclosure of exp(-1 / n): the remainder after t terms of the series of exp(1 / n) is at most 2 / (n^t * t!). -/
def expInv (n : Nat) : Enclosure :=
  let f := expSeries n 18
  ⟨unit128 * f.2 / (f.1 + 2), ceilDiv (unit128 * f.2) f.1⟩

/-- An enclosure of q = exp(-32768 / Sc^2). -/
def gaussBase (sc : Nat) : Enclosure := (expInv (32 * sc ^ 2)).squares 20

/-- dx^2 + dy^2 of tap n of a k x k kernel (R53, R199). -/
def tapDistance (k n : Nat) : Nat :=
  (((n % k : Nat) : Int) - (k - 1) / 2).natAbs ^ 2 + (((n / k : Nat) : Int) - (k - 1) / 2).natAbs ^ 2

/-- Enclosures of e(dx, dy) for all taps (R199). -/
def gaussWeights (k sc : Nat) : List Enclosure :=
  (List.range (k * k)).map fun n => (gaussBase sc).pow (tapDistance k n)

/-- The rounding of 2^24 * e / z, half up (R10, R199). -/
def roundCoef (e z : Nat) : Nat := (2 * 2 ^ 24 * e + z) / (2 * z)

/-- `gcoef(k, Sc)` (R199), from the upper ends of the enclosures. -/
def gcoef (k sc : Nat) : List Nat :=
  let es := gaussWeights k sc
  let z := (es.map Enclosure.lo).sum
  es.map fun e => roundCoef e.hi z

/-- The same from the lower ends. Where it equals `gcoef`, every coefficient is the exact rounding (log 9). -/
def gcoefBelow (k sc : Nat) : List Nat :=
  let es := gaussWeights k sc
  let z := (es.map Enclosure.hi).sum
  es.map fun e => roundCoef e.lo z

end Sys2Proof.Machine
end

