-- ==== Sys2Proof/Machine/Convolution.lean ====
section
/-! DEFINITION. The convolution engine: CONV, BOX, GAUSS, UNSHARP (R190 to R201). -/

namespace Sys2Proof.Machine

/-- `Q(acc)` (R195). -/
def quantise (acc : Int) : Int := clamp (fdiv (acc + 2 ^ 23) (2 ^ 24)) 0 255

/-- `acc(x, y, c)` (R194) with the coefficients Kq. -/
def State.correlate (s : State) (b : Buf) (mode : Border) (k : Nat) (kq : List Int) (x y c : Nat) : Int :=
  neighbourSum k (fun n => kq.getD n 0) (fun n => s.paddedSample b mode [x, y, c, n] c) x y

/-- The operands that every command of the family validates: the source, the border mode, the kernel size (R190). -/
structure ConvOperands where
  src  : Buf
  mode : Border
  k    : Nat
deriving DecidableEq, Repr

/-- The checks of CONV and BOX (R197, R198). -/
def checksConv (s : State) : Except ErrorKind ConvOperands := do
  let b ← checkSrc s
  let m ← checkBorder s
  let k ← checkKsize s
  checkDst s b.w b.h b.c
  return ⟨b, m, k⟩

/-- The checks of GAUSS (R200); the second result is the code of SIGMA. -/
def checksGauss (s : State) : Except ErrorKind (ConvOperands × Nat) := do
  let b ← checkSrc s
  let m ← checkBorder s
  let k ← checkKsize s
  let sc ← checkSigma s
  checkDst s b.w b.h b.c
  return (⟨b, m, k⟩, sc)

/-- The checks of UNSHARP (R201); the results after the operands are the codes of SIGMA and AMOUNT. -/
def checksUnsharp (s : State) : Except ErrorKind (ConvOperands × Nat × Nat) := do
  let b ← checkSrc s
  let m ← checkBorder s
  let k ← checkKsize s
  let sc ← checkSigma s
  let ac ← checkAmount s
  checkDst s b.w b.h b.c
  return (⟨b, m, k⟩, sc, ac)

/-- The kernel CONV takes from KMEM (R197): Q7.24 coefficients, each entry read once. -/
def State.kernel (s : State) (k : Nat) : List Int :=
  (List.range (k * k)).map fun n => (s.wordAt s.kmem [n] n).toInt

/-- The weight 1 for each of the first k*k entries of KMEM that nothing has written since reset, 0 for the others. -/
def State.kernelUnwritten (s : State) (k : Nat) : List Int :=
  (List.range (k * k)).map fun n => if Memory.get? s.kmem n = none then 1 else 0

/-- An output sample of CONV (R197). Padded samples are not negative, so the first sum is 0 exactly where no unwritten
coefficient meets a sample other than 0; elsewhere the output depends on an unwritten entry and is a free value of its own
(93 U4; log 21). -/
def State.convSample (s : State) (o : ConvOperands) (kq unwritten : List Int) (x y c : Nat) : Byte :=
  if s.correlate o.src o.mode o.k unwritten x y c = 0 then
    sampleByte (quantise (s.correlate o.src o.mode o.k kq x y c))
  else Config.freeByte s.draws [x, y, c]

/-- The commit of CONV (R197). -/
def commitConv (o : ConvOperands) (s : State) : State :=
  let kq := s.kernel o.k
  let unwritten := s.kernelUnwritten o.k
  s.produce o.src.w o.src.h o.src.c (s.convSample o kq unwritten)

/-- CONV (R197). -/
def execConv (s : State) : Host.Outcome State Fault Refusal :=
  .next (settle (checksConv s) commitConv s)

/-- `Ssum(x, y, c)` (R198). -/
def State.boxSum (s : State) (b : Buf) (mode : Border) (k x y c : Nat) : Int :=
  neighbourSum k (fun _ => 1) (fun n => s.paddedSample b mode [x, y, c, n] c) x y

/-- The commit of BOX (R198): the exactly rounded mean. -/
def commitBox (o : ConvOperands) (s : State) : State :=
  s.produce o.src.w o.src.h o.src.c fun x y c =>
    sampleByte (fdiv (2 * s.boxSum o.src o.mode o.k x y c + o.k * o.k) (2 * o.k * o.k))

/-- BOX (R198). -/
def execBox (s : State) : Host.Outcome State Fault Refusal :=
  .next (settle (checksConv s) commitBox s)

/-- The blurred sample, an integer 0..255 (R200, R201). -/
def State.blurred (s : State) (o : ConvOperands) (coefs : List Nat) (x y c : Nat) : Int :=
  quantise (s.correlate o.src o.mode o.k (coefs.map Int.ofNat) x y c)

/-- The commit of GAUSS (R200), with the coefficients of R199. -/
def commitGauss (o : ConvOperands) (coefs : List Nat) (s : State) : State :=
  (s.produce o.src.w o.src.h o.src.c fun x y c => sampleByte (s.blurred o coefs x y c)).writeKmem
    (o.k * o.k) (fun n => coefs.getD n 0)

/-- GAUSS (R200). -/
def execGauss (s : State) : Host.Outcome State Fault Refusal :=
  .next (settle (checksGauss s) (fun p => commitGauss p.1 (gcoef p.1.k p.2)) s)

/-- The sharpened sample (R201). -/
def sharpen (ac : Nat) (inp bl : Int) : Int := clamp (fdiv (256 * inp + ac * (inp - bl) + 128) 256) 0 255

/-- The commit of UNSHARP (R201): the sample itself is read apart from the taps of the blur. -/
def commitUnsharp (o : ConvOperands) (coefs : List Nat) (ac : Nat) (s : State) : State :=
  (s.produce o.src.w o.src.h o.src.c fun x y c =>
    sampleByte (sharpen ac (s.sample o.src [x, y, c] x y c) (s.blurred o coefs x y c))).writeKmem
    (o.k * o.k) (fun n => coefs.getD n 0)

/-- UNSHARP (R201). -/
def execUnsharp (s : State) : Host.Outcome State Fault Refusal :=
  .next (settle (checksUnsharp s) (fun p => commitUnsharp p.1 (gcoef p.1.k p.2.1) p.2.2) s)

end Sys2Proof.Machine
end

