-- ==== Sys2Proof/Machine/Histogram.lean ====
section
/-! DEFINITION. HIST (R170) and OTSU (R172 to R177). -/

namespace Sys2Proof.Machine

/-- The samples of the grayscale view, row by row; each pixel is read once. -/
def State.grayList (s : State) (b : Buf) : List Nat :=
  (List.range (b.w * b.h)).map fun n => s.grayAt b [n % b.w, n / b.w] (n % b.w) (n / b.w)

/-- HIST (R170). -/
def execHist (s : State) : Host.Outcome State Fault Refusal :=
  .next (settle (checkSrc s) (fun b s => s.writeHmem fun i => (s.grayList b).count i) s)

/-- The histogram OTSU reads (R172): h[i] = HMEM[i] as unsigned integers, each entry read once. -/
def State.histogram (s : State) : List Nat :=
  (List.range Config.hmemEntries).map fun i => (s.wordAt s.hmem [i] i).toNat

/-- N, and N0(t) on a prefix (R173): the number of pixels counted. -/
def mass (h : List Nat) : Nat := h.sum

/-- S, and S0(t) on a prefix (R173): the sum of i * h[i]. -/
def moment (h : List Nat) : Nat := (h.zipIdx.map fun p => p.2 * p.1).sum

/-- N0(t) (R173). -/
def massTo (h : List Nat) (t : Nat) : Nat := mass (h.take (t + 1))

/-- S0(t) (R173). -/
def momentTo (h : List Nat) (t : Nat) : Nat := moment (h.take (t + 1))

/-- N0(t) * N1(t) (R174): 0 exactly when a class is empty. -/
def classProduct (h : List Nat) (t : Nat) : Nat := massTo h t * (mass h - massTo h t)

/-- num(t) (R174). -/
def varNum (h : List Nat) (t : Nat) : Int :=
  if classProduct h t = 0 then 0
  else ((momentTo h t : Int) * mass h - (moment h : Int) * massTo h t) ^ 2

/-- den(t) (R174). -/
def varDen (h : List Nat) (t : Nat) : Int := if classProduct h t = 0 then 1 else classProduct h t

/-- `V(t) > V(u)` (R174). -/
def varGreater (h : List Nat) (t u : Nat) : Bool := varNum h t * varDen h u > varNum h u * varDen h t

/-- The choice of R175: best = 0; for t = 1 .. 255 in order, best is replaced by t iff V(t) > V(best). -/
def bestSplit (h : List Nat) : Nat :=
  (List.range' 1 255).foldl (fun best t => if varGreater h t best then t else best) 0

/-- Tstar (R172): the one occupied bin (R176), else the choice of R175. -/
def otsuThreshold (h : List Nat) : Nat :=
  if h.countP (· ≠ 0) = 1 then h.findIdx (· ≠ 0) else bestSplit h

/-- The check of OTSU (R177): a histogram that is not empty. -/
def checkHistogram (s : State) : Except ErrorKind (List Nat) :=
  if mass s.histogram = 0 then .error .invalidBuffer else .ok s.histogram

/-- Every entry of HMEM has been written since reset. -/
abbrev State.HistogramWritten (s : State) : Prop := ∀ i < Config.hmemEntries, Memory.get? s.hmem i ≠ none

/-- Tstar of OTSU: the threshold of the histogram (R172), or a free value where an entry of HMEM is unwritten (93 U5;
log 21). -/
def State.otsuResult (s : State) (h : List Nat) : Nat :=
  if s.HistogramWritten then otsuThreshold h else (Config.freeByte s.draws []).toNat

/-- OTSU_T written (R44, R172). -/
def State.writeOtsu (t : Nat) (s : State) : State := { s with otsuT := BitVec.ofNat 8 t }

/-- OTSU (R172). -/
def execOtsu (s : State) : Host.Outcome State Fault Refusal :=
  .next (settle (checkHistogram s) (fun h => State.writeOtsu (s.otsuResult h)) s)

end Sys2Proof.Machine
end

