-- ==== Sys2Proof/Machine/PointTransform.lean ====
section
/-! DEFINITION. The point transforms NEG, LOG, GAMMA, THRESH (R142 to R148). -/

namespace Sys2Proof.Machine

/-- The commit of R142 for a per-channel transform: `out(x, y, c) = f(S(Bsrc, x, y, c))`, and the LUT. -/
def commitPoint (f : Nat → Nat) (b : Buf) (s : State) : State :=
  ((s.produce b.w b.h b.c fun x y c => BitVec.ofNat 8 (f (s.sample b [x, y, c] x y c))).writeLut f)

/-- The commit of R142 for a transform of the grayscale view, with one channel out. -/
def commitGrayPoint (f : Nat → Nat) (b : Buf) (s : State) : State :=
  ((s.produce b.w b.h 1 fun x y _ => BitVec.ofNat 8 (f (s.grayAt b [x, y] x y))).writeLut f)

/-- The checks of NEG and LOG (R143, R144): CheckSrc, CheckDst(W, H, C). -/
def checksPoint (s : State) : Except ErrorKind Buf := do
  let b ← checkSrc s
  checkDst s b.w b.h b.c
  return b

/-- The checks of GAMMA (R146). -/
def checksGamma (s : State) : Except ErrorKind (Buf × Nat) := do
  let b ← checkSrc s
  let g ← checkGamma s
  checkDst s b.w b.h b.c
  return (b, g)

/-- The checks of THRESH (R148). -/
def checksThresh (s : State) : Except ErrorKind (Buf × Nat) := do
  let b ← checkSrc s
  let t ← checkThresh s
  checkDst s b.w b.h 1
  return (b, t)

/-- The table of NEG (R143). -/
def negTable (v : Nat) : Nat := 255 - v

/-- LOGTAB (R145), by its integer characterisation. -/
def logTable (v : Nat) : Nat := count255 fun j => 2 ^ (8 * j - 4) ≤ (1 + v) ^ 255

/-- `gam(v, Gc)` (R147), by its integer characterisation. -/
def gammaTable (gc v : Nat) : Nat :=
  if v = 0 then 0 else count255 fun j => (2 * j - 1) ^ 256 * 255 ^ gc ≤ 510 ^ 256 * v ^ gc

/-- The table of THRESH (R148). -/
def threshTable (t v : Nat) : Nat := if v ≥ t then 255 else 0

/-- NEG (R143). -/
def execNeg (s : State) : Host.Outcome State Fault Refusal :=
  .next (settle (checksPoint s) (commitPoint negTable) s)

/-- LOG (R144). -/
def execLog (s : State) : Host.Outcome State Fault Refusal :=
  .next (settle (checksPoint s) (commitPoint logTable) s)

/-- GAMMA (R146). -/
def execGamma (s : State) : Host.Outcome State Fault Refusal :=
  .next (settle (checksGamma s) (fun p => commitPoint (gammaTable p.2) p.1) s)

/-- THRESH (R148). -/
def execThresh (s : State) : Host.Outcome State Fault Refusal :=
  .next (settle (checksThresh s) (fun p => commitGrayPoint (threshTable p.2) p.1) s)

end Sys2Proof.Machine
end

