-- ==== Sys2Proof/Machine/Resampler.lean ====
section
/-! DEFINITION. The resampler: RESIZE_NN and RESIZE_BL (R250 to R254). -/

namespace Sys2Proof.Machine

/-- The checks of both commands (R250); the results after the source are newW and newH. -/
def checksResize (s : State) : Except ErrorKind (Buf × Nat × Nat) := do
  let b ← checkSrc s
  let nw ← checkNewDim s.operands.newW
  let nh ← checkNewDim s.operands.newH
  checkDst s nw nh b.c
  return (b, nw, nh)

/-- The commit of RESIZE_NN (R251). -/
def commitResizeNn (b : Buf) (nw nh : Nat) (s : State) : State :=
  s.produce nw nh b.c fun ox oy c =>
    BitVec.ofNat 8 (s.sample b [ox, oy, c] (ox * b.w / nw) (oy * b.h / nh) c)

/-- RESIZE_NN (R251). -/
def execResizeNn (s : State) : Host.Outcome State Fault Refusal :=
  .next (settle (checksResize s) (fun p => commitResizeNn p.1 p.2.1 p.2.2) s)

/-- One axis of R252 (R253): the two clamped indices, and the weight numerator FX in 0 .. 2*newN - 1. -/
structure AxisMap where
  i0   : Nat
  i1   : Nat
  frac : Int
deriving DecidableEq, Repr

/-- The coordinate mapping of R252 and R253 for output coordinate o, input length n and output length m. The weight is
taken from the unclamped index. -/
def axisMap (o n m : Nat) : AxisMap :=
  let num : Int := (2 * o + 1) * n - m
  let i : Int := fdiv num (2 * m)
  ⟨(clamp i 0 (n - 1)).toNat, (clamp (i + 1) 0 (n - 1)).toNat, num - i * (2 * m)⟩

/-- The blend numerator of R252. -/
def blendNum (dx dy fx fy : Int) (s00 s10 s01 s11 : Nat) : Int :=
  (dy - fy) * ((dx - fx) * s00 + fx * s10) + fy * ((dx - fx) * s01 + fx * s11)

/-- An output sample of RESIZE_BL (R252). -/
def State.bilinear (s : State) (b : Buf) (nw nh ox oy c : Nat) : Int :=
  let ax := axisMap ox b.w nw
  let ay := axisMap oy b.h nh
  let dx : Int := 2 * nw
  let dy : Int := 2 * nh
  let num := blendNum dx dy ax.frac ay.frac
    (s.sample b [ox, oy, c, 0] ax.i0 ay.i0 c) (s.sample b [ox, oy, c, 1] ax.i1 ay.i0 c)
    (s.sample b [ox, oy, c, 2] ax.i0 ay.i1 c) (s.sample b [ox, oy, c, 3] ax.i1 ay.i1 c)
  fdiv (2 * num + dx * dy) (2 * dx * dy)

/-- The commit of RESIZE_BL (R252). -/
def commitResizeBl (b : Buf) (nw nh : Nat) (s : State) : State :=
  s.produce nw nh b.c fun ox oy c => sampleByte (s.bilinear b nw nh ox oy c)

/-- RESIZE_BL (R252). -/
def execResizeBl (s : State) : Host.Outcome State Fault Refusal :=
  .next (settle (checksResize s) (fun p => commitResizeBl p.1 p.2.1 p.2.2) s)

end Sys2Proof.Machine
end

