-- ==== Sys2Proof/Machine/Sobel.lean ====
section
/-! DEFINITION. SOBEL (R230 to R236). -/

namespace Sys2Proof.Machine

/-- KX (R231). -/
def sobelX : List Int := [-1, 0, 1, -2, 0, 2, -1, 0, 1]

/-- KY (R231). -/
def sobelY : List Int := [-1, -2, -1, 0, 0, 0, 1, 2, 1]

/-- `Pg(x, y, mode)` (R193). -/
def State.paddedGray (s : State) (b : Buf) (mode : Border) (site : List Nat) (x y : Int) : Nat :=
  padded b.w b.h mode (fun xi yi => s.grayAt b site xi yi) x y

/-- A gradient response (R232): exact, signed, neither rounded nor clamped. `axis` tells the reads of Gx from those of
Gy. -/
def State.gradient (s : State) (b : Buf) (mode : Border) (kernel : List Int) (axis x y : Nat) : Int :=
  neighbourSum 3 (fun n => kernel.getD n 0) (fun n => s.paddedGray b mode [x, y, n, axis]) x y

/-- M2(x, y) (R233). -/
def State.squaredMagnitude (s : State) (b : Buf) (mode : Border) (x y : Nat) : Nat :=
  (s.gradient b mode sobelX 0 x y ^ 2 + s.gradient b mode sobelY 1 x y ^ 2).toNat

/-- M2 of all pixels, row by row. -/
def State.magnitudes (s : State) (b : Buf) (mode : Border) : List Nat :=
  (List.range (b.w * b.h)).map fun n => s.squaredMagnitude b mode (n % b.w) (n / b.w)

/-- The minimum of a list that is not empty. -/
def listMin (l : List Nat) : Nat := l.foldl min (l.headD 0)

/-- The maximum of a list that is not empty. -/
def listMax (l : List Nat) : Nat := l.foldl max (l.headD 0)

/-- hit(n) (R235). -/
def sobelHit (m2 lo hi n : Nat) : Bool :=
  let bn : Int := (2 * (n : Int) - 1) ^ 2 * hi
  let cn : Int := (511 - 2 * (n : Int)) ^ 2 * lo
  let dn : Int := 510 ^ 2 * m2 - bn - cn
  dn ≥ 0 && 4 * bn * cn ≤ dn ^ 2

/-- norm(m2, lo, hi) (R234 to R236), by the integer procedure of R235; 0 for a flat gradient image. -/
def sobelNorm (m2 lo hi : Nat) : Nat := if hi = lo then 0 else count255 (sobelHit m2 lo hi)

/-- The checks of SOBEL (R230). -/
def checksSobel (s : State) : Except ErrorKind (Buf × Border) := do
  let b ← checkSrc s
  let m ← checkBorder s
  checkDst s b.w b.h 1
  return (b, m)

/-- The commit of SOBEL (R230): each M2 is computed once and used for lo, hi and the output. -/
def commitSobel (b : Buf) (mode : Border) (s : State) : State :=
  let ms := s.magnitudes b mode
  let lo := listMin ms
  let hi := listMax ms
  s.produce b.w b.h 1 fun x y _ => BitVec.ofNat 8 (sobelNorm (ms.getD (y * b.w + x) 0) lo hi)

/-- SOBEL (R230). -/
def execSobel (s : State) : Host.Outcome State Fault Refusal :=
  .next (settle (checksSobel s) (fun p => commitSobel p.1 p.2) s)

end Sys2Proof.Machine
end

