-- ==== Sys2Proof/Machine/Dispatch.lean ====
section
/-! DEFINITION. The dispatch of the commands to their meanings: phases 2 to 4 of R122 for the command in flight. -/

namespace Sys2Proof.Machine

def exec (i : Instr) (s : State) : Host.Outcome State Fault Refusal :=
  match i with
  | .neg => Sys2Proof.Machine.execNeg s
  | .log => Sys2Proof.Machine.execLog s
  | .gamma => Sys2Proof.Machine.execGamma s
  | .thresh => Sys2Proof.Machine.execThresh s
  | .hist => Sys2Proof.Machine.execHist s
  | .otsu => Sys2Proof.Machine.execOtsu s
  | .conv => Sys2Proof.Machine.execConv s
  | .box => Sys2Proof.Machine.execBox s
  | .gauss => Sys2Proof.Machine.execGauss s
  | .unsharp => Sys2Proof.Machine.execUnsharp s
  | .sobel => Sys2Proof.Machine.execSobel s
  | .resizeNn => Sys2Proof.Machine.execResizeNn s
  | .resizeBl => Sys2Proof.Machine.execResizeBl s

end Sys2Proof.Machine
end

