-- ==== Sys2Proof/Machine/HostPort.lean ====
section
/-! DEFINITION. The host's side: the register map and the two ports (R20 to R57, R71, R72, R300 to R305, R310), and the
script notation (R112, R113). -/

namespace Sys2Proof.Machine

/-- The registers (R22 to R44). -/
inductive Reg where
  | id | ctrl | status | irqEn | cmd | srcAddr | srcW | srcH | srcC | srcLen | dstAddr | newW | newH | ksize | sigma
  | gamma | thresh | amount | outW | outH | outC | outLen | otsuT
deriving DecidableEq, Repr

/-- What stands at an offset of the register space. -/
inductive Place where
  | reg (r : Reg)
  | hmem (i : Nat)
  | kmem (n : Nat)
  | lut (v : Nat)
deriving DecidableEq, Repr

/-- The offset of a register (the register map of 10_state.md). -/
def Reg.offset : Reg → Nat
  | .id => 0x000
  | .ctrl => 0x004
  | .status => 0x008
  | .irqEn => 0x00C
  | .cmd => 0x010
  | .srcAddr => 0x014
  | .srcW => 0x018
  | .srcH => 0x01C
  | .srcC => 0x020
  | .srcLen => 0x024
  | .dstAddr => 0x028
  | .newW => 0x02C
  | .newH => 0x030
  | .ksize => 0x034
  | .sigma => 0x038
  | .gamma => 0x03C
  | .thresh => 0x040
  | .amount => 0x044
  | .outW => 0x050
  | .outH => 0x054
  | .outC => 0x058
  | .outLen => 0x05C
  | .otsuT => 0x060

/-- All 23 registers (R20). -/
def Reg.all : List Reg :=
  [.id, .ctrl, .status, .irqEn, .cmd, .srcAddr, .srcW, .srcH, .srcC, .srcLen, .dstAddr, .newW, .newH, .ksize, .sigma,
   .gamma, .thresh, .amount, .outW, .outH, .outC, .outLen, .otsuT]

/-- What a 32-bit access at an offset reaches; `none` where it is misaligned, unmapped, or above 0xFFF (R45, R71). -/
def place (off : Nat) : Option Place :=
  if off % 4 ≠ 0 then none
  else if off < 0x400 then (Reg.all.find? fun r => r.offset == off).map .reg
  else if off < 0x800 then some (.hmem ((off - 0x400) / 4))
  else if off < 0x9E4 then some (.kmem ((off - 0x800) / 4))
  else if 0xC00 ≤ off ∧ off ≤ 0xFFC then some (.lut ((off - 0xC00) / 4))
  else none

/-- The value of a register (R22 to R44). ID is hard-wired, reserved bits read 0. -/
def State.regWord (s : State) : Reg → Word
  | .id => Config.idWord
  | .ctrl => s.operands.border.setWidth 32
  | .status => s.status.word
  | .irqEn => s.irqEn.word
  | .cmd => s.cmd
  | .srcAddr => s.operands.srcAddr
  | .srcW => s.operands.srcW
  | .srcH => s.operands.srcH
  | .srcC => s.operands.srcC
  | .srcLen => s.operands.srcLen
  | .dstAddr => s.operands.dstAddr
  | .newW => s.operands.newW
  | .newH => s.operands.newH
  | .ksize => s.operands.ksize
  | .sigma => s.operands.sigma
  | .gamma => s.operands.gamma
  | .thresh => s.operands.thresh
  | .amount => s.operands.amount
  | .outW => s.out.w
  | .outH => s.out.h
  | .outC => s.out.c
  | .outLen => s.out.len
  | .otsuT => s.otsuT.setWidth 32

/-- A result location, whose value is unspecified while the engine is busy (R305). -/
def Place.isResult : Place → Bool
  | .reg .outW | .reg .outH | .reg .outC | .reg .outLen | .reg .otsuT => true
  | .reg _ => false
  | .hmem _ | .kmem _ | .lut _ => true

/-- The value of a place while the engine is idle (R50 to R57). -/
def State.placeWord (s : State) : Place → Word
  | .reg r => s.regWord r
  | .hmem i => s.wordAt s.hmem [i] i
  | .kmem n => s.wordAt s.kmem [n] n
  | .lut v => (s.byteAt s.lut [v] v).setWidth 32

/-- `RegRead` of a place (R305, R310): a free value for a result location while busy (93 U2). -/
def State.readPlace (s : State) (p : Place) : Word :=
  if s.status.busy && p.isResult then Config.freeWord s.draws [] else s.placeWord p

/-- A host write of an operand register, or a write that is ignored (R22, R23, R27 to R44). -/
def OperandRegs.write (o : OperandRegs) (v : Word) : Reg → OperandRegs
  | .ctrl => { o with border := v.setWidth 2 }
  | .srcAddr => { o with srcAddr := v }
  | .srcW => { o with srcW := v }
  | .srcH => { o with srcH := v }
  | .srcC => { o with srcC := v }
  | .srcLen => { o with srcLen := v }
  | .dstAddr => { o with dstAddr := v }
  | .newW => { o with newW := v }
  | .newH => { o with newH := v }
  | .ksize => { o with ksize := v }
  | .sigma => { o with sigma := v }
  | .gamma => { o with gamma := v }
  | .thresh => { o with thresh := v }
  | .amount => { o with amount := v }
  | .id | .status | .irqEn | .cmd | .outW | .outH | .outC | .outLen | .otsuT => o

/-- `RegWrite` of a place while the engine is idle, other than STATUS and IRQ_EN (R310): CMD issues a command, read-only
registers and the LUT ignore the write. -/
def State.writeIdle (s : State) (v : Word) : Place → State
  | .reg .cmd => s.accept v
  | .reg r => { s with operands := s.operands.write v r }
  | .hmem i => { s with hmem := Memory.store s.hmem i [v] }
  | .kmem n => { s with kmem := Memory.store s.kmem n [v] }
  | .lut _ => s

/-- A host write dropped because the engine is busy (R304). -/
def State.drop (s : State) : State := { s with status := s.status.dropped }

/-- `RegWrite` of a place (R304, R310): STATUS and IRQ_EN are written at any time, the rest only while idle. -/
def State.writePlace (s : State) (v : Word) : Place → State
  | .reg .status => s.acknowledge v
  | .reg .irqEn => { s with irqEn := IrqEn.ofWord v }
  | p => if s.status.busy then s.drop else s.writeIdle v p

/-- A port's answer reaches the host. -/
def State.answer (a : Answer) (s : State) : State := { s with responses := a :: s.responses }

/-- A register access is 32 bits wide at a mapped offset (R71); the place it reaches. -/
def regAccess (bytes off : Nat) : Option Place := if bytes = 4 then place off else none

/-- A legal BMEM transaction (R72). -/
def bmemLegal (s : State) (addr n : Nat) : Bool :=
  (n == 1 || n == 2 || n == 4) && addr % n == 0 && addr + n ≤ s.bmemBytes

/-- `BmemRead(addr, n)` of a legal transaction (R72, R305): while busy, a free value of the width read (93 U2). -/
def State.bmemWord (s : State) (addr n : Nat) : Word :=
  if s.status.busy then BitVec.ofNat 32 ((Config.freeWord s.draws []).toNat % 2 ^ (8 * n))
  else BitVec.ofNat 32 (s.memRead addr n)

/-- The reset input (R300 to R302): the reset state, whether or not a command was in flight. The environment, BMEM_BYTES
and the draw counter go on. -/
def State.assertReset (s : State) : State :=
  { State.reset with
    bmemBytes := s.bmemBytes, draws := s.draws, inbox := s.inbox, schedule := s.schedule, responses := s.responses }

/-- One host transaction (the table of R310). `wait` reads STATUS, and stays the next transaction while it shows
BUSY = 1 (R113). -/
def serve (tx : HostTx) (s : State) : State :=
  match tx with
  | .regRead bytes off =>
    match regAccess bytes off with
    | some p => s.answer (.data (s.readPlace p))
    | none => s.answer .error
  | .regWrite bytes off v =>
    match regAccess bytes off with
    | some p => (s.writePlace v p).answer .written
    | none => s.answer .error
  | .bmemRead addr n =>
    if bmemLegal s addr n then s.answer (.data (s.bmemWord addr n)) else s.answer .error
  | .bmemWrite addr n v =>
    if bmemLegal s addr n then (if s.status.busy then s.drop else s.memWrite addr n v).answer .written
    else s.answer .error
  | .wait =>
    let s' := s.answer (.data s.status.word)
    if s.status.busy then { s' with inbox := .wait :: s.inbox } else s'
  | .rst => s.assertReset

/-- Script line `wr <REG>, <value>` (R112). -/
def scriptWr (r : Reg) (v : Word) : HostTx := .regWrite 4 r.offset v

/-- Script line `rd <REG>` (R112). -/
def scriptRd (r : Reg) : HostTx := .regRead 4 r.offset

/-- Script line `wrk <n>, <value>` (R112). -/
def scriptWrk (n : Nat) (v : Word) : HostTx := .regWrite 4 (0x800 + 4 * n) v

/-- Script line `rdk <n>` (R112). -/
def scriptRdk (n : Nat) : HostTx := .regRead 4 (0x800 + 4 * n)

/-- Script line `wrh <i>, <value>` (R112). -/
def scriptWrh (i : Nat) (v : Word) : HostTx := .regWrite 4 (0x400 + 4 * i) v

/-- Script line `rdh <i>` (R112). -/
def scriptRdh (i : Nat) : HostTx := .regRead 4 (0x400 + 4 * i)

/-- Script line `rdl <v>` (R112). -/
def scriptRdl (v : Nat) : HostTx := .regRead 4 (0xC00 + 4 * v)

/-- Script line `wb <addr>, <byte>, ...` (R112). -/
def scriptWb (addr : Nat) : List Byte → List HostTx
  | [] => []
  | b :: bs => .bmemWrite addr 1 (b.setWidth 32) :: scriptWb (addr + 1) bs

/-- Script line `rb <addr>, <count>` (R112). -/
def scriptRb (addr count : Nat) : List HostTx := (List.range count).map fun j => .bmemRead (addr + j) 1

/-- Script line `<MNEMONIC>` (R112). -/
def scriptCmd (i : Instr) : HostTx := .regWrite 4 0x010 (encode i)

/-- Pseudo-instruction `run <MNEMONIC>` (R113). -/
def scriptRun (i : Instr) : List HostTx := [scriptCmd i, .wait]

/-- Pseudo-instruction `src <addr>, <W>, <H>, <C>` (R113). DESIGN CHOICE (log 20): where W*H*C does not fit the 32-bit
value of `wr SRC_LEN`, of which R113 says nothing, its low 32 bits are written. -/
def scriptSrc (addr w h c : Word) : List HostTx :=
  [scriptWr .srcAddr addr, scriptWr .srcW w, scriptWr .srcH h, scriptWr .srcC c,
   scriptWr .srcLen (BitVec.ofNat 32 (w.toNat * h.toNat * c.toNat))]

end Sys2Proof.Machine
end

