-- ==== Sys2Proof/Machine/Turns.lean ====
section
/-! DEFINITION. Who moves next, and the moves of the two agents (R14, R121, R131, R311). -/

namespace Sys2Proof.Machine

/-- The engine moves: a command is in flight, and the host has nothing to issue or the schedule does not name it. -/
def State.engineMoves (s : State) : Bool :=
  s.status.busy && (s.inbox.isEmpty || s.schedule.head? != some .host)

/-- The state as the agent that moves finds it: a new draw number (log 3), and the schedule's entry used up if a command
is in flight (log 5). -/
def State.turn (s : State) : State :=
  { s with draws := s.draws + 1, schedule := if s.status.busy then s.schedule.tail else s.schedule }

/-- The engine's move: the command in flight, decoded (R122 phase 1), is executed, or raises InvalidCommand (R101,
R276). -/
def runEngine (s : State) : Host.Outcome State Fault Refusal :=
  match decode s.cmd with
  | .ok i => exec i s
  | .error _ => .next (s.takeError .invalidCommand)

/-- The host's move: its next transaction; with none left nothing happens (R301, R311). -/
def runHost (s : State) : Host.Outcome State Fault Refusal :=
  match s.inbox with
  | [] => .next s
  | tx :: rest => .next (serve tx { s.turn with inbox := rest })

/-- A command word placed as the next thing to run (log 15): accepted as by a write to CMD (R120), with the engine named
as the next to move. -/
def State.placeCommand (w : Word) (s : State) : State :=
  { s.accept w with schedule := .engine :: s.schedule }

end Sys2Proof.Machine
end

