-- ==== Sys2Proof/Machine/Step.lean ====
section
/-! DEFINITION. One step: one host transaction, or the completion of the command in flight (R82, R311). -/

namespace Sys2Proof.Machine

/-- One step of the machine. -/
def step (s : State) : Host.Outcome State Fault Refusal :=
  if s.engineMoves then runEngine s.turn else runHost s

/-- The state with the command word of a row of spec/opcode_table.json in flight and the engine to move (log 15). -/
def State.withFetchWord (s : State) (nbits w : Nat) : State :=
  s.placeCommand (BitVec.ofNat 32 (w % 2 ^ nbits))

end Sys2Proof.Machine
end

