-- ==== Sys2Proof/Safety.lean ====
section
/-! DEFINITION. The terms claims are made in: when a command's operands are legal (R123 to R126, as conditions, not as
the checks the machine runs), what a command reads and writes (R105, R132), and the invariant of the machine. -/

namespace Sys2Proof.Machine

/-- SRC_C is legal (R124, R272). -/
abbrev ChannelsOk (s : State) : Prop := s.src.c = 1 ∨ s.src.c = 3

/-- The other four conditions of CheckSrc (R124, R273 a to d). -/
abbrev SourceRangeOk (s : State) : Prop :=
  (1 ≤ s.src.w ∧ s.src.w ≤ 65535) ∧ (1 ≤ s.src.h ∧ s.src.h ≤ 65535) ∧
    s.operands.srcLen.toNat = s.src.w * s.src.h * s.src.c ∧ s.src.addr + s.operands.srcLen.toNat ≤ s.bmemBytes

/-- The source buffer is legal (R124). -/
abbrev SrcOk (s : State) : Prop := ChannelsOk s ∧ SourceRangeOk s

/-- The destination range of ow * oh * oc bytes lies in BMEM and shares no byte with the source range (R126). -/
abbrev DstOk (s : State) (ow oh oc : Nat) : Prop :=
  s.operands.dstAddr.toNat + ow * oh * oc ≤ s.bmemBytes ∧
    (s.src.addr + s.operands.srcLen.toNat ≤ s.operands.dstAddr.toNat ∨
      s.operands.dstAddr.toNat + ow * oh * oc ≤ s.src.addr)

/-- CTRL.BORDER selects the mode m (R110). -/
abbrev BorderIs (s : State) (m : Border) : Prop := Border.ofBits s.operands.border = some m

/-- KSIZE is legal (R106). -/
abbrev KsizeOk (s : State) : Prop := s.operands.ksize.toNat ∈ [1, 3, 5, 7, 9, 11]

/-- A UQ8.8 parameter that must be positive is legal (R107): SIGMA, GAMMA. -/
abbrev PositiveUq88 (p : Word) : Prop := 1 ≤ p.toNat ∧ p.toNat ≤ 65535

/-- A UQ8.8 parameter that may be 0 is legal (R107): AMOUNT. -/
abbrev Uq88 (p : Word) : Prop := p.toNat ≤ 65535

/-- A target dimension is legal (R109). -/
abbrev NewDimOk (p : Word) : Prop := 1 ≤ p.toNat ∧ p.toNat ≤ 65535

/-- The commands that read a source buffer: all but OTSU (R105). -/
def readsSource : Instr → Bool
  | .otsu => false
  | .neg | .log | .gamma | .thresh | .hist | .conv | .box | .gauss | .unsharp | .sobel | .resizeNn | .resizeBl => true

/-- The commands that produce a buffer: all but HIST and OTSU (R105, R132). -/
def producesBuffer : Instr → Bool
  | .hist | .otsu => false
  | .neg | .log | .gamma | .thresh | .conv | .box | .gauss | .unsharp | .sobel | .resizeNn | .resizeBl => true

/-- The commands that write the LUT (R56). -/
def writesLut : Instr → Bool
  | .neg | .log | .gamma | .thresh => true
  | .hist | .otsu | .conv | .box | .gauss | .unsharp | .sobel | .resizeNn | .resizeBl => false

/-- The commands that write KMEM (R200, R201). -/
def writesKmem : Instr → Bool
  | .gauss | .unsharp => true
  | .neg | .log | .gamma | .thresh | .hist | .otsu | .conv | .box | .sobel | .resizeNn | .resizeBl => false

/-- The output width, height and channel count (R132); of no meaning for HIST and OTSU. -/
def outDims (i : Instr) (s : State) : Nat × Nat × Nat :=
  match i with
  | .neg | .log | .gamma | .conv | .box | .gauss | .unsharp => (s.src.w, s.src.h, s.src.c)
  | .thresh | .sobel => (s.src.w, s.src.h, 1)
  | .resizeNn | .resizeBl => (s.operands.newW.toNat, s.operands.newH.toNat, s.src.c)
  | .hist | .otsu => (0, 0, 0)

/-- The length of the destination range, in bytes. -/
def outLen (i : Instr) (s : State) : Nat := (outDims i s).1 * (outDims i s).2.1 * (outDims i s).2.2

/-- Every parameter a command reads is legal (the columns CTRL.BORDER to AMOUNT of R105, with R106 to R110). -/
def ParamsOk (i : Instr) (s : State) : Prop :=
  match i with
  | .neg | .log | .hist | .otsu => True
  | .gamma => PositiveUq88 s.operands.gamma
  | .thresh => s.operands.thresh.toNat ≤ 255
  | .conv | .box => s.operands.border ≠ 3 ∧ KsizeOk s
  | .gauss => s.operands.border ≠ 3 ∧ KsizeOk s ∧ PositiveUq88 s.operands.sigma
  | .unsharp => s.operands.border ≠ 3 ∧ KsizeOk s ∧ PositiveUq88 s.operands.sigma ∧ Uq88 s.operands.amount
  | .sobel => s.operands.border ≠ 3
  | .resizeNn | .resizeBl => NewDimOk s.operands.newW ∧ NewDimOk s.operands.newH

/-- `DstOk` with the output dimensions of the command (R123 check 4). -/
def DestinationOk (i : Instr) (s : State) : Prop := DstOk s (outDims i s).1 (outDims i s).2.1 (outDims i s).2.2

/-- The histogram in HMEM, as OTSU reads it, is empty (R177). -/
def HistogramEmpty (s : State) : Prop := ∀ i < 256, (s.wordAt s.hmem [i] i).toNat = 0

/-- The error of a command by the order of R123 and R277: `e` is the kind of the first failing check. -/
def FirstFailure (i : Instr) (s : State) : ErrorKind → Prop
  | .unsupportedChannelCount => readsSource i = true ∧ ¬ChannelsOk s
  | .invalidBuffer =>
    (readsSource i = true ∧ ChannelsOk s ∧ ¬SourceRangeOk s) ∨
      (producesBuffer i = true ∧ SrcOk s ∧ ParamsOk i s ∧ ¬DestinationOk i s) ∨ (i = .otsu ∧ HistogramEmpty s)
  | .invalidParameter => readsSource i = true ∧ SrcOk s ∧ ¬ParamsOk i s
  | .invalidCommand => False

/-- No check of R123 fails. -/
def ChecksPass (i : Instr) (s : State) : Prop :=
  (readsSource i = true → SrcOk s) ∧ ParamsOk i s ∧ (producesBuffer i = true → DestinationOk i s) ∧
    (i = .otsu → ¬HistogramEmpty s)

/-- The state in which the destination range of t holds the ow x oh x oc buffer `out` in the layout of R78 and R79, and
the result registers describe it (R129), DST_ADDR being that of s. -/
def HoldsBuffer (s t : State) (ow oh oc : Nat) (out : Nat → Nat → Nat → Byte) : Prop :=
  (∀ x < ow, ∀ y < oh, ∀ c < oc,
    Memory.get? t.bmem (s.operands.dstAddr.toNat + (y * ow + x) * oc + c) = some (out x y c)) ∧
  t.out.w.toNat = ow ∧ t.out.h.toNat = oh ∧ t.out.c.toNat = oc ∧
  (s.bmemBytes ≤ 2 ^ 32 → t.out.len.toNat = ow * oh * oc)

/-- The success completion of R127: BUSY 0, DONE 1, ERR, ERRCODE and BUSYWR as they were. -/
def Done (s t : State) : Prop := t.status = { s.status with busy := false, done := true }

/-- STATUS is legal (R24): at most one of BUSY, DONE, ERR is 1; ERRCODE is nonzero exactly when ERR is 1, and is one of
the four codes of R271. -/
def StatusLegal (f : Status) : Prop :=
  ¬(f.busy = true ∧ f.done = true) ∧ ¬(f.busy = true ∧ f.err = true) ∧ ¬(f.done = true ∧ f.err = true) ∧
    (f.err = true ↔ f.errCode ≠ 0) ∧ f.errCode.toNat ≤ 4

/-- The result registers are legal (R40 to R43): all 0, or the dimensions of a buffer with their product. -/
def OutLegal (o : OutRegs) : Prop :=
  o = ⟨0, 0, 0, 0⟩ ∨
    ((1 ≤ o.w.toNat ∧ o.w.toNat ≤ 65535) ∧ (1 ≤ o.h.toNat ∧ o.h.toNat ≤ 65535) ∧ (o.c.toNat = 1 ∨ o.c.toNat = 3) ∧
      o.len.toNat = o.w.toNat * o.h.toNat * o.c.toNat)

/-- All four memories are in canonical form and inside their sizes (R50, R52, R55, R70). -/
def MemoriesCanonical (s : State) : Prop :=
  Memory.wf s.bmemBytes s.bmem ∧ Memory.wf Config.hmemEntries s.hmem ∧ Memory.wf Config.kmemEntries s.kmem ∧
    Memory.wf Config.lutEntries s.lut

/-- The invariant of the machine. -/
structure StateInv (s : State) : Prop where
  size     : 1 ≤ s.bmemBytes ∧ s.bmemBytes ≤ Config.bmemBytesMax
  status   : StatusLegal s.status
  out      : OutLegal s.out
  memories : MemoriesCanonical s

/-! The formulas of the spec, in rational and integer arithmetic, for the statements about results. -/

/-- An integer clamped to 0..255 and stored as a sample (R9, R79). -/
def toSample (z : Int) : Byte := BitVec.ofInt 8 (max 0 (min 255 z))

/-- The double sum of R194: coefficient j*k + i times the padded sample at offset (i - r, j - r). `plane n` is the padded
plane as the read of tap n finds it. -/
def correlationSum (k : Nat) (coef : Nat → Int) (plane : Nat → Int → Int → Nat) (x y : Nat) : Int :=
  ∑ j ∈ Finset.range k, ∑ i ∈ Finset.range k,
    coef (j * k + i) * (plane (j * k + i) ((x : Int) + i - (k - 1) / 2) ((y : Int) + j - (k - 1) / 2) : Int)

/-- The between-class variance of R173 as an exact rational, 0 where a class is empty. -/
def betweenClassVariance (h : Nat → Nat) (t : Nat) : ℚ :=
  let n : ℚ := ∑ i ∈ Finset.range 256, (h i : ℚ)
  let n0 : ℚ := ∑ i ∈ Finset.range (t + 1), (h i : ℚ)
  let m : ℚ := ∑ i ∈ Finset.range 256, (i * h i : ℚ)
  let m0 : ℚ := ∑ i ∈ Finset.range (t + 1), (i * h i : ℚ)
  if n0 = 0 ∨ n - n0 = 0 then 0 else n0 / n * ((n - n0) / n) * (m0 / n0 - (m - m0) / (n - n0)) ^ 2

/-- The histogram OTSU reads (R172). -/
def hmemCount (s : State) (i : Nat) : Nat := (s.wordAt s.hmem [i] i).toNat

/-- The grayscale view of the source buffer (R141), each pixel read once. -/
def sourceGray (s : State) (x y : Nat) : Nat := s.grayAt s.src [x, y] x y

/-- Two states agree on the inputs of a command (R61, R105): the registers its row marks R, the source range of BMEM,
HMEM for OTSU, the first k*k entries of KMEM for CONV; and on the draw number of the free values (log 3). -/
def AgreeOnInputs (i : Instr) (s u : State) : Prop :=
  s.bmemBytes = u.bmemBytes ∧ s.draws = u.draws ∧ s.status = u.status ∧
  (readsSource i = true → s.src = u.src ∧ s.operands.srcLen = u.operands.srcLen ∧
    ∀ a, s.src.addr ≤ a → a < s.src.addr + s.operands.srcLen.toNat →
      Memory.get? s.bmem a = Memory.get? u.bmem a) ∧
  (producesBuffer i = true → s.operands.dstAddr = u.operands.dstAddr) ∧
  (i ∈ [Instr.conv, .box, .gauss, .unsharp, .sobel] → s.operands.border = u.operands.border) ∧
  (i ∈ [Instr.conv, .box, .gauss, .unsharp] → s.operands.ksize = u.operands.ksize) ∧
  (i ∈ [Instr.gauss, .unsharp] → s.operands.sigma = u.operands.sigma) ∧
  (i = .unsharp → s.operands.amount = u.operands.amount) ∧ (i = .gamma → s.operands.gamma = u.operands.gamma) ∧
  (i = .thresh → s.operands.thresh = u.operands.thresh) ∧
  (i ∈ [Instr.resizeNn, .resizeBl] → s.operands.newW = u.operands.newW ∧ s.operands.newH = u.operands.newH) ∧
  (i = .otsu → ∀ n < 256, Memory.get? s.hmem n = Memory.get? u.hmem n) ∧
  (i = .conv → ∀ n < s.operands.ksize.toNat * s.operands.ksize.toNat, Memory.get? s.kmem n = Memory.get? u.kmem n)

end Sys2Proof.Machine
end

