-- ==== Sys2Proof/Certificates/Slice0/Obligations.lean ====
section
/-! DEFINITION. The statements for the provers. Each docstring names the rules it formalises. -/

open Sys2Proof Sys2Proof.Machine

/-! ## Encoding (R100 to R104, R114) -/

/-- R103: every command is well formed, and decoding its word gives it back. -/
def Obligations.DecodeInvertsEncode : Prop :=
  ∀ i : Instr, i.wellFormed = true ∧ decode (encode i) = .ok i

/-- R104: a word decodes exactly when it is one of the thirteen, and those are the well-formed words. -/
def Obligations.LegalWordsAreTheThirteen : Prop :=
  ∀ w : Word, (∀ i, decode w = .ok i ↔ w = encode i) ∧ (wordWellFormed w = true ↔ ∃ i, w = encode i)

/-- R103: some words written out from the opcode map, one per unit, and some that are illegal. -/
def Obligations.WrittenOutWordsDecode : Prop :=
  decode 0b00000000000000000000000000000001 = .ok .neg ∧ decode 0b00000000000000000000000000000100 = .ok .thresh ∧
  decode 0b00000000000000000000000000010001 = .ok .otsu ∧ decode 0b00000000000000000000000000100000 = .ok .conv ∧
  decode 0b00000000000000000000000000100100 = .ok .sobel ∧ decode 0b00000000000000000000000000110001 = .ok .resizeBl ∧
  decode 0b00000000000000000000000000000000 = .error .opcodeUnassigned ∧
  decode 0b00000000000000000000000100100100 = .error .upperBitsNonzero

/-- R114: a command's word prints as its mnemonic, which assembles to the word; any other word prints as `.word 0x`
and its eight hexadecimal digits, the most significant first, and is illegal. Nothing is said of the digits' letter case,
which is the model's choice (log 22). -/
def Obligations.PrintingAndAssemblingAreInverse : Prop :=
  (∀ i : Instr, printWord (encode i) = i.mnemonic ∧ assemble i.mnemonic = some (encode i)) ∧
  ∀ w : Word, (∀ i, w ≠ encode i) → printWord w = ".word 0x" ++ hexWord w ∧
    (hexWord w).toList.map Char.toLower = (List.range 8).map (fun i => Nat.digitChar (w.toNat / 16 ^ (7 - i) % 16)) ∧
    ∃ e, decode w = .error e

/-! ## The step (R101, R121, R131, R276, R301) -/

/-- A step at which the engine moves runs the command that CMD holds, as `turn` leaves the state; and a command placed by
`withFetchWord` is what the very next step runs. -/
def Obligations.StepRunsTheCommandInFlight : Prop :=
  (∀ (s : State) (i : Instr), s.engineMoves = true → decode s.cmd = .ok i → step s = exec i s.turn) ∧
  ∀ (s : State) (i : Instr), step (s.withFetchWord 32 (encode i).toNat) =
    exec i { s with cmd := encode i, status := s.status.accepted, draws := s.draws + 1 }

/-- R276: an illegal word in flight ends in InvalidCommand, whatever the other registers hold. -/
def Obligations.IllegalWordRaisesInvalidCommand : Prop :=
  ∀ s : State, s.engineMoves = true → (∀ i, s.cmd ≠ encode i) →
    step s = .next { s.turn with status := { s.status with busy := false, err := true, errCode := 4 } }

/-- The model's scheduling (log 4, 5): where the engine does not move, a step serves the host's next transaction; an idle
engine with no host transaction does nothing (R301). -/
def Obligations.StepServesTheHost : Prop :=
  (∀ (s : State) (tx : HostTx) (rest : List HostTx), s.engineMoves = false → s.inbox = tx :: rest →
    step s = .next (serve tx { s.turn with inbox := rest })) ∧
  ∀ s : State, s.status.busy = false → s.inbox = [] → step s = .next s

/-- R131: a command in flight completes, or is abandoned by a reset, after finitely many steps; in the model (log 5) at
most one more than the schedule has entries. -/
def Obligations.CommandInFlightCompletes : Prop :=
  ∀ s : State, s.status.busy = true →
    ∃ n ≤ s.schedule.length + 1, ∃ t : State, Sys2Proof.core.run n s = .next t ∧ t.status.busy = false

/-! ## Invariant -/

/-- The machine's invariant holds after reset. -/
def Obligations.ResetMeetsTheInvariant : Prop := StateInv State.reset

/-- Every step keeps the invariant: the memories in canonical form and inside their sizes, STATUS legal (R24), the result
registers describing a buffer whose length is the product (R43). -/
def Obligations.StepKeepsTheInvariant : Prop :=
  ∀ s t : State, StateInv s → step s = .next t → StateInv t

/-! ## Reset (R60, R301, R302) -/

/-- R60, R301: what every register reads after reset, and that no memory entry is specified. -/
def Obligations.RegistersAfterReset : Prop :=
  (∀ r : Reg, State.reset.regWord r = if r = .id then 0x49505401 else 0) ∧ State.reset.irq = false ∧
  ∀ a, Memory.get? State.reset.hmem a = none ∧ Memory.get? State.reset.kmem a = none ∧
    Memory.get? State.reset.lut a = none ∧ Memory.get? State.reset.bmem a = none

/-- R302: reset abandons a command in flight: the registers take their reset values, the interrupt is low and no memory
entry keeps a specified value; the parameter BMEM_BYTES stays. -/
def Obligations.ResetAbandonsACommand : Prop :=
  ∀ s : State, (∀ r : Reg, (serve .rst s).regWord r = State.reset.regWord r) ∧ (serve .rst s).irq = false ∧
    (serve .rst s).bmemBytes = s.bmemBytes ∧
    ∀ a, Memory.get? (serve .rst s).hmem a = none ∧ Memory.get? (serve .rst s).kmem a = none ∧
      Memory.get? (serve .rst s).lut a = none ∧ Memory.get? (serve .rst s).bmem a = none

/-! ## The register port (R22 to R57, R71, R120, R304, R305) -/

/-- R45, R71 and the table of 10_state.md section 2: what stands at each offset, and which offsets have nothing. -/
def Obligations.RegisterMap : Prop :=
  (∀ p ∈ [(0x000, Reg.id), (0x004, .ctrl), (0x008, .status), (0x00C, .irqEn), (0x010, .cmd), (0x014, .srcAddr),
    (0x018, .srcW), (0x01C, .srcH), (0x020, .srcC), (0x024, .srcLen), (0x028, .dstAddr), (0x02C, .newW),
    (0x030, .newH), (0x034, .ksize), (0x038, .sigma), (0x03C, .gamma), (0x040, .thresh), (0x044, .amount),
    (0x050, .outW), (0x054, .outH), (0x058, .outC), (0x05C, .outLen), (0x060, .otsuT)],
    place p.1 = some (.reg p.2) ∧ p.2.offset = p.1) ∧
  (∀ r : Reg, place r.offset = some (.reg r)) ∧ (∀ i < 256, place (0x400 + 4 * i) = some (.hmem i)) ∧
  (∀ n < 121, place (0x800 + 4 * n) = some (.kmem n)) ∧ (∀ v < 256, place (0xC00 + 4 * v) = some (.lut v)) ∧
  ∀ off, off % 4 ≠ 0 ∨ off = 0x048 ∨ off = 0x04C ∨ (0x064 ≤ off ∧ off ≤ 0x3FC) ∨ (0x9E4 ≤ off ∧ off ≤ 0xBFC) ∨
    0xFFF < off → place off = none

/-- R71, R72: a register access that is not 32 bits wide or reaches nothing, and a BMEM access that is misaligned or out
of range, get an error response and have no effect on any state. -/
def Obligations.BadAccessesHaveNoEffect : Prop :=
  (∀ (s : State) (bytes off : Nat) (v : Word), bytes ≠ 4 ∨ place off = none →
    serve (.regRead bytes off) s = { s with responses := .error :: s.responses } ∧
    serve (.regWrite bytes off v) s = { s with responses := .error :: s.responses }) ∧
  ∀ (s : State) (addr n : Nat) (v : Word),
    (n ≠ 1 ∧ n ≠ 2 ∧ n ≠ 4) ∨ addr % n ≠ 0 ∨ s.bmemBytes < addr + n →
    serve (.bmemRead addr n) s = { s with responses := .error :: s.responses } ∧
    serve (.bmemWrite addr n v) s = { s with responses := .error :: s.responses }

/-- R120: a write to CMD while idle is accepted, whatever the word, and whatever DONE and ERR hold; while busy it is
dropped. -/
def Obligations.CommandAcceptance : Prop :=
  ∀ (s : State) (c : Word),
    serve (.regWrite 4 0x010 c) s =
      if s.status.busy then
        { s with status := { s.status with busyWr := true }, responses := .written :: s.responses }
      else
        { s with
          cmd := c
          status := { busy := true, done := false, err := false, errCode := 0, busyWr := s.status.busyWr }
          responses := .written :: s.responses }

/-- R23, R27 to R39: an operand register written while idle reads back what was written (CTRL its bits [1:0]); no other
register and no memory changes. -/
def Obligations.OperandRegistersReadBack : Prop :=
  ∀ (s : State) (v : Word), s.status.busy = false →
    ∀ r ∈ [Reg.ctrl, .srcAddr, .srcW, .srcH, .srcC, .srcLen, .dstAddr, .newW, .newH, .ksize, .sigma, .gamma, .thresh,
      .amount],
      (serve (.regWrite 4 r.offset v) s).regWord r = (if r = .ctrl then BitVec.ofNat 32 (v.toNat % 4) else v) ∧
      (∀ q, q ≠ r → (serve (.regWrite 4 r.offset v) s).regWord q = s.regWord q) ∧
      (serve (.regWrite 4 r.offset v) s).hmem = s.hmem ∧ (serve (.regWrite 4 r.offset v) s).kmem = s.kmem ∧
      (serve (.regWrite 4 r.offset v) s).lut = s.lut ∧ (serve (.regWrite 4 r.offset v) s).bmem = s.bmem

/-- R22, R40 to R44, R57: writes to the read-only registers and to the LUT are ignored while idle. -/
def Obligations.ReadOnlyPlacesIgnoreWrites : Prop :=
  ∀ (s : State) (v : Word), s.status.busy = false →
    (∀ r ∈ [Reg.id, .outW, .outH, .outC, .outLen, .otsuT],
      serve (.regWrite 4 r.offset v) s = { s with responses := .written :: s.responses }) ∧
    ∀ n < 256, serve (.regWrite 4 (0xC00 + 4 * n) v) s = { s with responses := .written :: s.responses }

/-- R24: a write to STATUS, busy or not. Bits 1, 2, 3 written as 1 clear DONE, ERR with ERRCODE, and BUSYWR; nothing else
changes. -/
def Obligations.StatusWriteOneToClear : Prop :=
  ∀ (s : State) (v : Word),
    serve (.regWrite 4 0x008 v) s =
      { s with
        status :=
          { busy := s.status.busy
            done := if v.getLsbD 1 then false else s.status.done
            err := if v.getLsbD 2 then false else s.status.err
            busyWr := if v.getLsbD 3 then false else s.status.busyWr
            errCode := if v.getLsbD 2 then 0 else s.status.errCode }
        responses := .written :: s.responses }

/-- R25, R304: a write to IRQ_EN, busy or not, keeps bits 1 and 2 and changes nothing else. -/
def Obligations.InterruptEnableWrite : Prop :=
  ∀ (s : State) (v : Word),
    serve (.regWrite 4 0x00C v) s =
      { s with irqEn := ⟨v.getLsbD 1, v.getLsbD 2⟩, responses := .written :: s.responses } ∧
    (serve (.regWrite 4 0x00C v) s).regWord .irqEn = BitVec.ofNat 32 (v.toNat / 2 % 4 * 2)

/-- R24, R48: the bits of STATUS as the port reads them, and the interrupt output by the bits of the two registers. -/
def Obligations.StatusBitsAndInterruptOutput : Prop :=
  ∀ s : State, (s.regWord .status).getLsbD 0 = s.status.busy ∧ (s.regWord .status).getLsbD 1 = s.status.done ∧
    (s.regWord .status).getLsbD 2 = s.status.err ∧ (s.regWord .status).getLsbD 3 = s.status.busyWr ∧
    (s.regWord .status).extractLsb' 8 3 = s.status.errCode ∧ (s.regWord .status).extractLsb' 4 4 = 0 ∧
    (s.regWord .status).extractLsb' 11 21 = 0 ∧
    s.irq = ((s.regWord .status).getLsbD 1 && (s.regWord .irqEn).getLsbD 1 ||
      (s.regWord .status).getLsbD 2 && (s.regWord .irqEn).getLsbD 2)

/-- R304: while busy, a write to any mapped offset but those of STATUS and IRQ_EN, and a legal BMEM write, change nothing
but BUSYWR. -/
def Obligations.WritesWhileBusyAreDropped : Prop :=
  ∀ (s : State) (v : Word), s.status.busy = true →
    (∀ off, off ≠ 0x008 → off ≠ 0x00C → place off ≠ none →
      serve (.regWrite 4 off v) s =
        { s with status := { s.status with busyWr := true }, responses := .written :: s.responses }) ∧
    ∀ addr n, n = 1 ∨ n = 2 ∨ n = 4 → addr % n = 0 → addr + n ≤ s.bmemBytes →
      serve (.bmemWrite addr n v) s =
        { s with status := { s.status with busyWr := true }, responses := .written :: s.responses }

/-- R121, R304: no host transaction but reset changes what the command in flight computes from, or its progress: the
operands, CMD, the memories, the results and STATUS but for BUSYWR stay. -/
def Obligations.HostCannotDisturbACommand : Prop :=
  ∀ (s : State) (tx : HostTx), s.status.busy = true → s.status.done = false → s.status.err = false →
    s.status.errCode = 0 → tx ≠ .rst →
    (serve tx s).operands = s.operands ∧ (serve tx s).cmd = s.cmd ∧ (serve tx s).out = s.out ∧
    (serve tx s).otsuT = s.otsuT ∧ (serve tx s).hmem = s.hmem ∧ (serve tx s).kmem = s.kmem ∧
    (serve tx s).lut = s.lut ∧ (serve tx s).bmem = s.bmem ∧ (serve tx s).bmemBytes = s.bmemBytes ∧
    ∃ b, (serve tx s).status = { s.status with busyWr := b }

/-- R305: a register read returns the value, at any time for the registers that are no result, and while idle for all; so
does, while idle, a read of a written entry of HMEM, KMEM and LUT, an entry of LUT zero-extended (R55); it has no side effect,
whatever is read. The values of CTRL, CMD and the operand and result registers are the fields of the state (R22 to R44), STATUS
and IRQ_EN have their bits in StatusBitsAndInterruptOutput and InterruptEnableWrite. -/
def Obligations.RegisterReads : Prop :=
  (∀ (s : State) (r : Reg), r ∉ [Reg.outW, .outH, .outC, .outLen, .otsuT] ∨ s.status.busy = false →
    serve (.regRead 4 r.offset) s = { s with responses := .data (s.regWord r) :: s.responses }) ∧
  (∀ s : State, s.regWord .id = 0x49505401 ∧ s.regWord .ctrl = s.operands.border.setWidth 32 ∧ s.regWord .cmd = s.cmd ∧
    s.regWord .srcAddr = s.operands.srcAddr ∧ s.regWord .srcW = s.operands.srcW ∧ s.regWord .srcH = s.operands.srcH ∧
    s.regWord .srcC = s.operands.srcC ∧ s.regWord .srcLen = s.operands.srcLen ∧
    s.regWord .dstAddr = s.operands.dstAddr ∧ s.regWord .newW = s.operands.newW ∧ s.regWord .newH = s.operands.newH ∧
    s.regWord .ksize = s.operands.ksize ∧ s.regWord .sigma = s.operands.sigma ∧ s.regWord .gamma = s.operands.gamma ∧
    s.regWord .thresh = s.operands.thresh ∧ s.regWord .amount = s.operands.amount ∧ s.regWord .outW = s.out.w ∧
    s.regWord .outH = s.out.h ∧ s.regWord .outC = s.out.c ∧ s.regWord .outLen = s.out.len ∧
    s.regWord .otsuT = s.otsuT.setWidth 32) ∧
  (∀ s : State, s.status.busy = false →
    (∀ i < 256, ∀ v, Memory.get? s.hmem i = some v →
      serve (.regRead 4 (0x400 + 4 * i)) s = { s with responses := .data v :: s.responses }) ∧
    (∀ n < 121, ∀ v, Memory.get? s.kmem n = some v →
      serve (.regRead 4 (0x800 + 4 * n)) s = { s with responses := .data v :: s.responses }) ∧
    ∀ v < 256, ∀ b, Memory.get? s.lut v = some b →
      serve (.regRead 4 (0xC00 + 4 * v)) s = { s with responses := .data (b.setWidth 32) :: s.responses }) ∧
  ∀ (s : State) (off : Nat), place off ≠ none →
    ∃ v, serve (.regRead 4 off) s = { s with responses := .data v :: s.responses }

/-- R51, R54: while idle an entry of HMEM or KMEM reads back what was written to it, and no other entry changes. -/
def Obligations.HistogramAndKernelReadBack : Prop :=
  ∀ (s : State) (v : Word), s.status.busy = false →
    (∀ i < 256, Memory.get? (serve (.regWrite 4 (0x400 + 4 * i) v) s).hmem i = some v ∧
      (∀ j, j ≠ i → Memory.get? (serve (.regWrite 4 (0x400 + 4 * i) v) s).hmem j = Memory.get? s.hmem j) ∧
      ∀ t, serve (.regWrite 4 (0x400 + 4 * i) v) s = t →
        serve (.regRead 4 (0x400 + 4 * i)) t = { t with responses := .data v :: t.responses }) ∧
    ∀ n < 121, Memory.get? (serve (.regWrite 4 (0x800 + 4 * n) v) s).kmem n = some v ∧
      (∀ j, j ≠ n → Memory.get? (serve (.regWrite 4 (0x800 + 4 * n) v) s).kmem j = Memory.get? s.kmem j) ∧
      ∀ t, serve (.regWrite 4 (0x800 + 4 * n) v) s = t →
        serve (.regRead 4 (0x800 + 4 * n)) t = { t with responses := .data v :: t.responses }

/-! ## The BMEM port (R72 to R74) -/

/-- R72, R73, R74: a legal write while idle stores its bytes, the least significant at the lowest address, and no other
byte; reading the same bytes gives the low 8 n bits back. -/
def Obligations.BmemWriteReadsBackLittleEndian : Prop :=
  ∀ (s t : State) (addr n : Nat) (v : Word), s.status.busy = false → n = 1 ∨ n = 2 ∨ n = 4 → addr % n = 0 →
    addr + n ≤ s.bmemBytes → serve (.bmemWrite addr n v) s = t →
    (∀ i < n, Memory.get? t.bmem (addr + i) = some (v.extractLsb' (8 * i) 8)) ∧
    (∀ a, a < addr ∨ addr + n ≤ a → Memory.get? t.bmem a = Memory.get? s.bmem a) ∧
    t.operands = s.operands ∧ t.status = s.status ∧
    serve (.bmemRead addr n) t =
      { t with responses := .data (BitVec.ofNat 32 (v.toNat % 2 ^ (8 * n))) :: t.responses }

/-! ## Errors (R123, R128, R270 to R277) -/

/-- R123, R271, R275, R277: a command some check of which fails ends in the error of the FIRST failing check, with the
code of R271 in ERRCODE, ERR 1 and BUSY 0, and changes nothing else. -/
def Obligations.FirstFailingCheckDecidesTheError : Prop :=
  ∀ (i : Instr) (s : State) (e : ErrorKind), FirstFailure i s e →
    exec i s = .next
      { s with
        status :=
          { s.status with
            busy := false
            err := true
            errCode := match e with
              | .invalidBuffer => 1
              | .invalidParameter => 2
              | .unsupportedChannelCount => 3
              | .invalidCommand => 4 } }

/-- R127, R128: a command ends in the success completion if no check fails, and otherwise in the error completion with
the error of the first failing check. -/
def Obligations.ChecksDecideTheCompletion : Prop :=
  ∀ (i : Instr) (s : State),
    (ChecksPass i s → ∃ t, exec i s = .next t ∧ Done s t) ∧
    (¬ChecksPass i s → ∃ e, FirstFailure i s e ∧
      exec i s = .next { s with status := { s.status with busy := false, err := true, errCode := e.code } })

/-! ## What commands leave unchanged (R46, R79, R88, R89) -/

/-- R46: no command writes CTRL, IRQ_EN, CMD, a descriptor or a parameter register. -/
def Obligations.CommandsWriteNoOperand : Prop :=
  ∀ (i : Instr) (s t : State), exec i s = .next t →
    t.operands = s.operands ∧ t.irqEn = s.irqEn ∧ t.cmd = s.cmd

/-- R88: no command writes a byte of its source range, whether it succeeds or fails. -/
def Obligations.SourceRangeIsNeverWritten : Prop :=
  ∀ (i : Instr) (s t : State) (a : Nat), readsSource i = true → exec i s = .next t →
    s.src.addr ≤ a → a < s.src.addr + s.operands.srcLen.toNat → Memory.get? t.bmem a = Memory.get? s.bmem a

/-- R79, R89, R105: the frame of the commands that produce a buffer, which are NEG, LOG, GAMMA, THRESH, CONV, BOX, GAUSS,
UNSHARP, SOBEL, RESIZE_NN, RESIZE_BL. Outside the destination range, whose address is DST_ADDR and whose length is that
of R132, every byte of BMEM reads as before; HMEM and OTSU_T stay; the LUT stays but for NEG, LOG, GAMMA, THRESH; KMEM
stays but for GAUSS and UNSHARP, and there from entry k*k on; BUSYWR and the operand registers stay. -/
def Obligations.BufferCommandFrame : Prop :=
  ∀ (i : Instr) (s t : State), producesBuffer i = true → exec i s = .next t →
    (∀ a, a < s.operands.dstAddr.toNat ∨ s.operands.dstAddr.toNat + outLen i s ≤ a →
      Memory.get? t.bmem a = Memory.get? s.bmem a) ∧
    t.hmem = s.hmem ∧ t.otsuT = s.otsuT ∧ (writesLut i = false → t.lut = s.lut) ∧
    (writesKmem i = false → t.kmem = s.kmem) ∧
    (∀ n, s.operands.ksize.toNat * s.operands.ksize.toNat ≤ n → Memory.get? t.kmem n = Memory.get? s.kmem n) ∧
    t.operands = s.operands ∧ t.irqEn = s.irqEn ∧ t.cmd = s.cmd ∧ t.status.busyWr = s.status.busyWr ∧
    (t.status.err = s.status.err ∧ t.status.errCode = s.status.errCode ∨ t.status.done = s.status.done) ∧
    t.bmemBytes = s.bmemBytes

/-- R89, R170, R172: the frame of HIST and OTSU. No byte of BMEM, no result register OUT_*, no entry of LUT or KMEM
changes; HIST keeps OTSU_T, OTSU keeps HMEM. -/
def Obligations.HistogramCommandFrame : Prop :=
  ∀ (i : Instr) (s t : State), producesBuffer i = false → exec i s = .next t →
    (∀ a, Memory.get? t.bmem a = Memory.get? s.bmem a) ∧ t.out = s.out ∧ t.lut = s.lut ∧ t.kmem = s.kmem ∧
    (i = .hist → t.otsuT = s.otsuT) ∧ (i = .otsu → t.hmem = s.hmem) ∧
    t.operands = s.operands ∧ t.irqEn = s.irqEn ∧ t.cmd = s.cmd ∧ t.status.busyWr = s.status.busyWr ∧
    (t.status.err = s.status.err ∧ t.status.errCode = s.status.errCode ∨ t.status.done = s.status.done) ∧
    t.bmemBytes = s.bmemBytes

/-- R61, R130: what a command writes is a function of its inputs. Two states that agree on them end with the same
completion and the same results: the destination range, the registers and the memory entries the command writes. -/
def Obligations.CommandsDependOnlyOnTheirInputs : Prop :=
  ∀ (i : Instr) (s u t v : State), AgreeOnInputs i s u → exec i s = .next t → exec i u = .next v →
    t.status = v.status ∧
    (t.status.err = false → producesBuffer i = true →
      t.out = v.out ∧ ∀ a, s.operands.dstAddr.toNat ≤ a → a < s.operands.dstAddr.toNat + outLen i s →
        Memory.get? t.bmem a = Memory.get? v.bmem a) ∧
    (t.status.err = false → writesLut i = true → ∀ n < 256, Memory.get? t.lut n = Memory.get? v.lut n) ∧
    (t.status.err = false → writesKmem i = true → ∀ n < s.operands.ksize.toNat * s.operands.ksize.toNat,
      Memory.get? t.kmem n = Memory.get? v.kmem n) ∧
    (t.status.err = false → i = .hist → ∀ n < 256, Memory.get? t.hmem n = Memory.get? v.hmem n) ∧
    (t.status.err = false → i = .otsu → t.otsuT = v.otsuT)

/-- R82, R121, R304, R309: whatever transactions but reset the host issues while a command is in flight, and whenever the
engine completes, the results are those of the command executed on the state as it stood; only the free values (the draw
number, log 3) and BUSYWR may differ. -/
def Obligations.CompletionIgnoresTheHost : Prop :=
  ∀ (s : State) (i : Instr), s.status.busy = true → s.status.done = false → s.status.err = false →
    s.status.errCode = 0 → decode s.cmd = .ok i → HostTx.rst ∉ s.inbox →
    ∃ n ≤ s.schedule.length + 1, ∃ (t u : State) (d : Nat), Sys2Proof.core.run n s = .next t ∧
      exec i { s with draws := d } = .next u ∧ t.status.busy = false ∧
      t.bmem = u.bmem ∧ t.hmem = u.hmem ∧ t.kmem = u.kmem ∧ t.lut = u.lut ∧ t.out = u.out ∧ t.otsuT = u.otsuT ∧
      t.operands = u.operands ∧ t.cmd = u.cmd ∧ t.status = { u.status with busyWr := t.status.busyWr }

/-! ## Reading the source (R78, R140, R141, R191 to R193) -/

/-- R78: a sample is the byte at the interleaved, packed, row-major address. -/
def Obligations.SampleAddressing : Prop :=
  ∀ (s : State) (site : List Nat) (x y c : Nat) (v : Byte),
    Memory.get? s.bmem (s.operands.srcAddr.toNat +
      (y * s.operands.srcW.toNat + x) * s.operands.srcC.toNat + c) = some v →
    s.sample s.src site x y c = v.toNat

/-- R140: the luma function: the weighted sum over 1000, rounded half up; it is at most 255 and the identity on grays. -/
def Obligations.LumaIsTheRoundedWeightedSum : Prop :=
  ∀ r g b : Nat, r ≤ 255 → g ≤ 255 → b ≤ 255 →
    (gray r g b : Int) = ⌊((299 * r + 587 * g + 114 * b : Nat) : ℚ) / 1000 + 1 / 2⌋ ∧ gray r g b ≤ 255 ∧
    gray r r r = r

/-- R141: the grayscale view: the sample itself for one channel, the luma of the three samples for RGB. -/
def Obligations.GrayscaleView : Prop :=
  ∀ (s : State) (x y : Nat),
    (∀ v : Byte, s.src.c = 1 → Memory.get? s.bmem (s.src.addr + (y * s.src.w + x)) = some v →
      sourceGray s x y = v.toNat) ∧
    ∀ r g b : Byte, s.src.c = 3 → Memory.get? s.bmem (s.src.addr + (y * s.src.w + x) * 3) = some r →
      Memory.get? s.bmem (s.src.addr + (y * s.src.w + x) * 3 + 1) = some g →
      Memory.get? s.bmem (s.src.addr + (y * s.src.w + x) * 3 + 2) = some b →
      sourceGray s x y = (299 * r.toNat + 587 * g.toNat + 114 * b.toNat + 500) / 1000

/-- R110, R191, R192: the border modes and the index map. Inside an axis every mode keeps the index; outside, REPLICATE takes the nearest inside
index, ZERO the mark, REFLECT the mirrored index, continued with period 2n. -/
def Obligations.BorderIndexMap : Prop :=
  (Border.ofBits 0 = some .reflect ∧ Border.ofBits 1 = some .replicate ∧ Border.ofBits 2 = some .zero ∧
    Border.ofBits 3 = none) ∧
  ∀ (i : Int) (n : Nat), 1 ≤ n →
    (∀ mode, 0 ≤ i → i < n → bidx i n mode = some i.toNat) ∧
    (i < 0 → bidx i n .replicate = some 0) ∧ (n ≤ i → bidx i n .replicate = some (n - 1)) ∧
    (i < 0 ∨ n ≤ i → bidx i n .zero = none) ∧
    (-n ≤ i → i < 0 → bidx i n .reflect = some (-i - 1).toNat) ∧
    (n ≤ i → i < 2 * n → bidx i n .reflect = some (2 * n - 1 - i).toNat) ∧
    bidx (i + 2 * n) n .reflect = bidx i n .reflect ∧ ∀ mode m, bidx i n mode = some m → m < n

/-- R193: the padded sample of a channel and of the grayscale view: the two axes are mapped independently, and 0 where
either is marked. -/
def Obligations.PaddedSample : Prop :=
  ∀ (s : State) (b : Buf) (mode : Border) (site : List Nat) (c : Nat) (x y : Int),
    (∀ xi yi, bidx x b.w mode = some xi → bidx y b.h mode = some yi →
      s.paddedSample b mode site c x y = s.sample b site xi yi c ∧
      s.paddedGray b mode site x y = s.grayAt b site xi yi) ∧
    (bidx x b.w mode = none ∨ bidx y b.h mode = none →
      s.paddedSample b mode site c x y = 0 ∧ s.paddedGray b mode site x y = 0)

/-! ## The point transforms (R142 to R149) -/

/-- R142, R143: NEG completes, with 255 minus each sample and the LUT of 255 - v. A sample that nothing has written reads
as a free value (log 2), here and in the statements below. -/
def Obligations.NegResult : Prop :=
  ∀ s : State, SrcOk s → DstOk s s.src.w s.src.h s.src.c →
    ∃ t, exec .neg s = .next t ∧ Done s t ∧
      HoldsBuffer s t s.src.w s.src.h s.src.c
        (fun x y c => BitVec.ofNat 8 (255 - s.sample s.src [x, y, c] x y c)) ∧
      ∀ v < 256, Memory.get? t.lut v = some (BitVec.ofNat 8 (255 - v))

/-- R142, R144: LOG completes, with the table LOGTAB of each sample and as the LUT. -/
def Obligations.LogResult : Prop :=
  ∀ s : State, SrcOk s → DstOk s s.src.w s.src.h s.src.c →
    ∃ t, exec .log s = .next t ∧ Done s t ∧
      HoldsBuffer s t s.src.w s.src.h s.src.c
        (fun x y c => BitVec.ofNat 8 (logTable (s.sample s.src [x, y, c] x y c))) ∧
      ∀ v < 256, Memory.get? t.lut v = some (BitVec.ofNat 8 (logTable v))

/-- R142, R146: GAMMA completes where its code is legal, with the table gam of each sample and as the LUT. -/
def Obligations.GammaResult : Prop :=
  ∀ s : State, SrcOk s → PositiveUq88 s.operands.gamma → DstOk s s.src.w s.src.h s.src.c →
    ∃ t, exec .gamma s = .next t ∧ Done s t ∧
      HoldsBuffer s t s.src.w s.src.h s.src.c
        (fun x y c => BitVec.ofNat 8 (gammaTable s.operands.gamma.toNat (s.sample s.src [x, y, c] x y c))) ∧
      ∀ v < 256, Memory.get? t.lut v = some (BitVec.ofNat 8 (gammaTable s.operands.gamma.toNat v))

/-- R142, R148: THRESH completes where T <= 255, with one channel: 255 where the grayscale view is at least T, else 0; and
the LUT likewise. -/
def Obligations.ThreshResult : Prop :=
  ∀ s : State, SrcOk s → s.operands.thresh.toNat ≤ 255 → DstOk s s.src.w s.src.h 1 →
    ∃ t, exec .thresh s = .next t ∧ Done s t ∧
      HoldsBuffer s t s.src.w s.src.h 1
        (fun x y _ => if s.operands.thresh.toNat ≤ sourceGray s x y then 255 else 0) ∧
      ∀ v < 256, Memory.get? t.lut v = some (if s.operands.thresh.toNat ≤ v then 255 else 0)

/-- R145: the table of LOG is the rounded logarithm, and its integer characterisation; the check sums of the rule. -/
def Obligations.LogTableIsTheRoundedLogarithm : Prop :=
  (∀ v < 256, (logTable v : Int) = ⌊255 * Real.log (1 + v) / Real.log 256 + 1 / 2⌋ ∧
    logTable v = ((Finset.Icc 1 255).filter fun j => (1 + v) ^ 255 ≥ 2 ^ (8 * j - 4)).card) ∧
  ∑ v ∈ Finset.range 256, logTable v = 53678 ∧ (∑ v ∈ Finset.range 256, v * logTable v) % 65521 = 46579

/-- R147: the table of GAMMA is 0 at 0 and elsewhere the rounded real power; code 256 is the identity. -/
def Obligations.GammaTableIsTheRoundedPower : Prop :=
  ∀ gc v : Nat, 1 ≤ gc → gc ≤ 65535 → v < 256 →
    gammaTable gc 0 = 0 ∧
    (1 ≤ v → (gammaTable gc v : Int) = ⌊255 * ((v : ℝ) / 255) ^ ((gc : ℝ) / 256) + 1 / 2⌋) ∧
    gammaTable gc v = (if v = 0 then 0 else
      ((Finset.Icc 1 255).filter fun j => (2 * j - 1) ^ 256 * 255 ^ gc ≤ 510 ^ 256 * v ^ gc).card) ∧
    gammaTable 256 v = v

/-! ## Histogram and Otsu (R170 to R177) -/

/-- R170: HIST completes, with HMEM[i] the number of pixels whose gray value is i. -/
def Obligations.HistResult : Prop :=
  ∀ s : State, SrcOk s →
    ∃ t, exec .hist s = .next t ∧ Done s t ∧
      ∀ i < 256, Memory.get? t.hmem i = some (BitVec.ofNat 32
        ((Finset.range s.src.w ×ˢ Finset.range s.src.h).filter fun p => sourceGray s p.1 p.2 = i).card)

/-- R171: after a successful HIST the counts sum to W * H, which is at least 1. -/
def Obligations.HistogramSumsToThePixelCount : Prop :=
  ∀ s t : State, SrcOk s → exec .hist s = .next t →
    ∑ i ∈ Finset.range 256, hmemCount t i = s.src.w * s.src.h ∧ 1 ≤ s.src.w * s.src.h

/-- R172 to R176: OTSU completes on a histogram that is not empty. Where all 256 entries have been written since reset: with
one occupied bin the threshold is that bin; else it is the smallest t in 0..255 whose between-class variance is maximal.
Where an entry is unwritten nothing is said of the threshold: it is a free value (93 U5; log 21, DEDUCED). -/
def Obligations.OtsuResult : Prop :=
  ∀ s : State, ¬HistogramEmpty s →
    ∃ (t : State) (best : Nat), exec .otsu s = .next t ∧ Done s t ∧ best < 256 ∧ t.otsuT = BitVec.ofNat 8 best ∧
      (s.HistogramWritten → ∀ v < 256, (∀ i < 256, hmemCount s i ≠ 0 ↔ i = v) → best = v) ∧
      (s.HistogramWritten → (¬∃ v < 256, ∀ i < 256, hmemCount s i ≠ 0 ↔ i = v) →
        (∀ u < 256, betweenClassVariance (hmemCount s) u ≤ betweenClassVariance (hmemCount s) best) ∧
        ∀ u < best, betweenClassVariance (hmemCount s) u < betweenClassVariance (hmemCount s) best)

/-! ## The convolution engine (R194 to R203) -/

/-- R195: the output quantisation: the sum over 2^24, rounded half up and clamped to 0..255. -/
def Obligations.OutputQuantisation : Prop :=
  ∀ acc : Int, quantise acc = max 0 (min 255 ⌊(acc : ℚ) / 2 ^ 24 + 1 / 2⌋)

/-- R194, R195, R197: CONV completes where the border mode and KSIZE are legal, with the quantised correlation of the
source with the Q7.24 coefficients of KMEM. A sample at which a coefficient that nothing has written since reset meets a
padded sample other than 0 (the first sum counts them, weighted) is a free value (93 U4; log 21, DEDUCED). -/
def Obligations.ConvResult : Prop :=
  ∀ (s : State) (m : Border), SrcOk s → BorderIs s m → KsizeOk s → DstOk s s.src.w s.src.h s.src.c →
    ∃ t, exec .conv s = .next t ∧ Done s t ∧
      HoldsBuffer s t s.src.w s.src.h s.src.c (fun x y c =>
        let sum : (Nat → Int) → Int := fun coef =>
          correlationSum s.operands.ksize.toNat coef (fun n => s.paddedSample s.src m [x, y, c, n] c) x y
        if sum (fun n => if Memory.get? s.kmem n = none then 1 else 0) = 0 then
          toSample ⌊(sum (fun n => (s.wordAt s.kmem [n] n).toInt) : ℚ) / 2 ^ 24 + 1 / 2⌋
        else Config.freeByte s.draws [x, y, c])

/-- R198: BOX completes likewise, with the exactly rounded mean of the k * k neighbourhood. -/
def Obligations.BoxResult : Prop :=
  ∀ (s : State) (m : Border), SrcOk s → BorderIs s m → KsizeOk s → DstOk s s.src.w s.src.h s.src.c →
    ∃ t, exec .box s = .next t ∧ Done s t ∧
      HoldsBuffer s t s.src.w s.src.h s.src.c (fun x y c =>
        toSample ⌊(correlationSum s.operands.ksize.toNat (fun _ => 1)
          (fun n => s.paddedSample s.src m [x, y, c, n] c) x y : ℚ) / (s.operands.ksize.toNat : ℚ) ^ 2 + 1 / 2⌋)

/-- R200: GAUSS completes where SIGMA is legal too, with the quantised correlation with the model's coefficient list
`gcoef`, which it leaves in KMEM. That `gcoef` is the list of R199 for every legal k and Sc is the model's claim (log 9,
DEDUCED, unverified by Lean), not part of this statement. -/
def Obligations.GaussResult : Prop :=
  ∀ (s : State) (m : Border), SrcOk s → BorderIs s m → KsizeOk s → PositiveUq88 s.operands.sigma →
    DstOk s s.src.w s.src.h s.src.c →
    ∃ t, exec .gauss s = .next t ∧ Done s t ∧
      HoldsBuffer s t s.src.w s.src.h s.src.c (fun x y c =>
        toSample ⌊(correlationSum s.operands.ksize.toNat
          (fun n => ((gcoef s.operands.ksize.toNat s.operands.sigma.toNat).getD n 0 : Int))
          (fun n => s.paddedSample s.src m [x, y, c, n] c) x y : ℚ) / 2 ^ 24 + 1 / 2⌋) ∧
      ∀ n < s.operands.ksize.toNat * s.operands.ksize.toNat, Memory.get? t.kmem n =
        some (BitVec.ofNat 32 ((gcoef s.operands.ksize.toNat s.operands.sigma.toNat).getD n 0))

/-- R201: UNSHARP completes where AMOUNT is legal too, with in + a * (in - bl) rounded and clamped, where bl is the
rounded and clamped correlation of GaussResult with the model's list `gcoef`, which it leaves in KMEM. That `gcoef` is the
list of R199 for every legal k and Sc is the model's claim (log 9, DEDUCED, unverified by Lean), not part of this
statement. -/
def Obligations.UnsharpResult : Prop :=
  ∀ (s : State) (m : Border), SrcOk s → BorderIs s m → KsizeOk s → PositiveUq88 s.operands.sigma →
    Uq88 s.operands.amount → DstOk s s.src.w s.src.h s.src.c →
    ∃ t, exec .unsharp s = .next t ∧ Done s t ∧
      HoldsBuffer s t s.src.w s.src.h s.src.c (fun x y c =>
        let bl : Byte := toSample ⌊(correlationSum s.operands.ksize.toNat
          (fun n => ((gcoef s.operands.ksize.toNat s.operands.sigma.toNat).getD n 0 : Int))
          (fun n => s.paddedSample s.src m [x, y, c, n] c) x y : ℚ) / 2 ^ 24 + 1 / 2⌋
        let inp : ℚ := s.sample s.src [x, y, c] x y c
        toSample ⌊inp + (s.operands.amount.toNat : ℚ) / 256 * (inp - bl.toNat) + 1 / 2⌋) ∧
      ∀ n < s.operands.ksize.toNat * s.operands.ksize.toNat, Memory.get? t.kmem n =
        some (BitVec.ofNat 32 ((gcoef s.operands.ksize.toNat s.operands.sigma.toNat).getD n 0))

/-- R199: the coefficients against the real exponentials. The exact rounding of 2^24 * e / Z lies between the two
computed lists, and the one used exceeds 2^24 * e / Z by at most 1/2 + 2^-60; where the two lists agree it IS the exact
rounding. That they agree for every legal k and Sc is the model's claim (log 9), not part of this statement. -/
def Obligations.GaussianCoefficients : Prop :=
  ∀ k sc : Nat, k ∈ [1, 3, 5, 7, 9, 11] → 1 ≤ sc → sc ≤ 65535 → ∀ j < k, ∀ i < k,
    let e : Nat → Nat → ℝ := fun a b =>
      Real.exp (-((((a : ℝ) - (k - 1) / 2) ^ 2 + ((b : ℝ) - (k - 1) / 2) ^ 2) * 32768 / (sc : ℝ) ^ 2))
    let w : ℝ := 2 ^ 24 * e i j / ∑ b ∈ Finset.range k, ∑ a ∈ Finset.range k, e a b
    ((gcoefBelow k sc).getD (j * k + i) 0 : Int) ≤ ⌊w + 1 / 2⌋ ∧
    ⌊w + 1 / 2⌋ ≤ ((gcoef k sc).getD (j * k + i) 0 : Int) ∧
    ((gcoef k sc).getD (j * k + i) 0 : ℝ) ≤ w + 1 / 2 + 1 / 2 ^ 60

/-- R203 (a), R149 (c), R255 (a), R251: the commands that copy a written source byte to the destination: BOX and GAUSS
with k = 1, UNSHARP with k = 1 or amount 0, GAMMA with code 256, both resizes at identity scale. -/
def Obligations.IdentityCommandsCopyTheSource : Prop :=
  ∀ (i : Instr) (s t : State), ChecksPass i s → exec i s = .next t →
    (i ∈ [Instr.box, .gauss, .unsharp] ∧ s.operands.ksize = 1) ∨ (i = .unsharp ∧ s.operands.amount = 0) ∨
      (i = .gamma ∧ s.operands.gamma = 256) ∨
      (i ∈ [Instr.resizeNn, .resizeBl] ∧ s.operands.newW = s.operands.srcW ∧ s.operands.newH = s.operands.srcH) →
    ∀ n < s.operands.srcLen.toNat, ∀ v, Memory.get? s.bmem (s.src.addr + n) = some v →
      Memory.get? t.bmem (s.operands.dstAddr.toNat + n) = some v

/-- R203 (b), R255 (b): a constant image, one value `v c` in each channel c, is reproduced exactly by BOX and GAUSS in the
modes REFLECT and REPLICATE, and by both resizes. -/
def Obligations.ConstantImagesAreReproduced : Prop :=
  ∀ (i : Instr) (s t : State) (v : Nat → Byte), i ∈ [Instr.box, .gauss, .resizeNn, .resizeBl] →
    (i ∈ [Instr.box, .gauss] → BorderIs s .reflect ∨ BorderIs s .replicate) → ChecksPass i s →
    (∀ n < s.operands.srcLen.toNat, Memory.get? s.bmem (s.src.addr + n) = some (v (n % s.src.c))) →
    exec i s = .next t →
    ∀ n < outLen i s, Memory.get? t.bmem (s.operands.dstAddr.toNat + n) = some (v (n % s.src.c))

/-! ## Sobel (R230 to R236) -/

/-- R230 to R233: SOBEL completes where the border mode is legal, with one channel: the normalisation of the squared
magnitude of the two gradient responses, `lo` and `hi` being its least and greatest value over the image. -/
def Obligations.SobelResult : Prop :=
  ∀ (s : State) (m : Border), SrcOk s → BorderIs s m → DstOk s s.src.w s.src.h 1 →
    let g : List Int → Nat → Nat → Nat → Int := fun kernel axis x y =>
      correlationSum 3 (fun n => kernel.getD n 0)
        (fun n => padded s.src.w s.src.h m (fun a b => s.grayAt s.src [x, y, n, axis] a b)) x y
    let m2 : Nat → Nat → Nat := fun x y =>
      (g [-1, 0, 1, -2, 0, 2, -1, 0, 1] 0 x y ^ 2 + g [-1, -2, -1, 0, 0, 0, 1, 2, 1] 1 x y ^ 2).toNat
    ∃ (t : State) (lo hi : Nat), exec .sobel s = .next t ∧ Done s t ∧
      IsLeast {n | ∃ x < s.src.w, ∃ y < s.src.h, n = m2 x y} lo ∧
      IsGreatest {n | ∃ x < s.src.w, ∃ y < s.src.h, n = m2 x y} hi ∧
      HoldsBuffer s t s.src.w s.src.h 1 (fun x y _ => BitVec.ofNat 8 (sobelNorm (m2 x y) lo hi))

/-- R234, R236: the normalisation is the linear rescaling of the real magnitudes, rounded half up; 0 for a flat gradient
image. -/
def Obligations.SobelNormalisation : Prop :=
  ∀ m2 lo hi : Nat, lo ≤ m2 → m2 ≤ hi →
    (lo < hi → (sobelNorm m2 lo hi : Int) = ⌊255 * (√(m2 : ℝ) - √lo) / (√hi - √lo) + 1 / 2⌋) ∧
    (hi = lo → sobelNorm m2 lo hi = 0)

/-- R236: SOBEL of a uniform image, one value `v c` in each channel c, in the modes REFLECT and REPLICATE is all zero. -/
def Obligations.SobelOfAUniformImage : Prop :=
  ∀ (s t : State) (v : Nat → Byte), BorderIs s .reflect ∨ BorderIs s .replicate → ChecksPass .sobel s →
    (∀ n < s.operands.srcLen.toNat, Memory.get? s.bmem (s.src.addr + n) = some (v (n % s.src.c))) →
    exec .sobel s = .next t →
    ∀ n < s.src.w * s.src.h, Memory.get? t.bmem (s.operands.dstAddr.toNat + n) = some 0

/-! ## The resampler (R250 to R255) -/

/-- R251: RESIZE_NN completes where the target dimensions are legal, with the sample at the floors of ox * W / newW and
oy * H / newH. -/
def Obligations.ResizeNnResult : Prop :=
  ∀ s : State, SrcOk s → NewDimOk s.operands.newW → NewDimOk s.operands.newH →
    DstOk s s.operands.newW.toNat s.operands.newH.toNat s.src.c →
    ∃ t, exec .resizeNn s = .next t ∧ Done s t ∧
      HoldsBuffer s t s.operands.newW.toNat s.operands.newH.toNat s.src.c (fun ox oy c =>
        BitVec.ofNat 8 (s.sample s.src [ox, oy, c] ⌊(ox * s.src.w / s.operands.newW.toNat : ℚ)⌋.toNat
          ⌊(oy * s.src.h / s.operands.newH.toNat : ℚ)⌋.toNat c))

/-- R252 to R254: RESIZE_BL completes likewise, with the bilinear blend of the four neighbours at the pixel-centre-aligned
source coordinate, rounded half up: the weights from the unclamped floor, the samples at the clamped indices. -/
def Obligations.ResizeBlResult : Prop :=
  ∀ s : State, SrcOk s → NewDimOk s.operands.newW → NewDimOk s.operands.newH →
    DstOk s s.operands.newW.toNat s.operands.newH.toNat s.src.c →
    ∃ t, exec .resizeBl s = .next t ∧ Done s t ∧
      HoldsBuffer s t s.operands.newW.toNat s.operands.newH.toNat s.src.c (fun ox oy c =>
        let sx : ℚ := (ox + 1 / 2) * s.src.w / s.operands.newW.toNat - 1 / 2
        let sy : ℚ := (oy + 1 / 2) * s.src.h / s.operands.newH.toNat - 1 / 2
        let at' : Nat → Int → Int → ℚ := fun n x y => s.sample s.src [ox, oy, c, n]
          (max 0 (min ((s.src.w : Int) - 1) x)).toNat (max 0 (min ((s.src.h : Int) - 1) y)).toNat c
        let fx : ℚ := sx - ⌊sx⌋
        let fy : ℚ := sy - ⌊sy⌋
        toSample ⌊(1 - fy) * ((1 - fx) * at' 0 ⌊sx⌋ ⌊sy⌋ + fx * at' 1 (⌊sx⌋ + 1) ⌊sy⌋) +
          fy * ((1 - fx) * at' 2 ⌊sx⌋ (⌊sy⌋ + 1) + fx * at' 3 (⌊sx⌋ + 1) (⌊sy⌋ + 1)) + 1 / 2⌋)
end

