-- ==== Sys2Proof/Laws/Checks.lean ====
section
/-! SUPPORT. Each check of R123 passes exactly under the spec's condition, and fails with the spec's error. -/

namespace Sys2Proof.Machine

theorem checkSrc_ok {s : State} (h : SrcOk s) : checkSrc s = .ok s.src := by
  obtain ⟨hc, ⟨hw1, hw2⟩, ⟨hh1, hh2⟩, hl, ha⟩ := h
  unfold checkSrc
  dsimp only
  rw [if_neg (by omega), if_neg (by omega), if_neg (by simp [Config.maxDim]; omega), if_neg (by omega),
    if_neg (by omega)]

/-- A source whose W*H*C does not fit 32 bits is legal with no SRC_LEN (R124), so what `src` writes there (log 20) makes no
source legal. -/
theorem not_srcOk_of_length_overflow {s : State}
    (h : 2 ^ 32 ≤ s.operands.srcW.toNat * s.operands.srcH.toNat * s.operands.srcC.toNat) : ¬SrcOk s := by
  rintro ⟨-, -, -, hl, -⟩
  exact Nat.not_lt.2 h (hl ▸ s.operands.srcLen.isLt)

theorem checkSrc_channels {s : State} (h : ¬ChannelsOk s) : checkSrc s = .error .unsupportedChannelCount := by
  simp only [ChannelsOk] at h
  unfold checkSrc
  dsimp only
  rw [if_pos (by omega)]

theorem checkSrc_range {s : State} (h : ChannelsOk s) (h2 : ¬SourceRangeOk s) :
    checkSrc s = .error .invalidBuffer := by
  simp only [ChannelsOk] at h
  unfold checkSrc
  simp only [SourceRangeOk] at h2
  dsimp only
  rw [if_neg (by omega)]
  by_cases h3 : s.src.w = 0 ∨ s.src.h = 0
  · rw [if_pos h3]
  by_cases h4 : s.src.w > Config.maxDim ∨ s.src.h > Config.maxDim
  · rw [if_neg h3, if_pos h4]
  by_cases h5 : s.operands.srcLen.toNat ≠ s.src.w * s.src.h * s.src.c
  · rw [if_neg h3, if_neg h4, if_pos h5]
  by_cases h6 : s.src.addr + s.operands.srcLen.toNat > s.bmemBytes
  · rw [if_neg h3, if_neg h4, if_neg h5, if_pos h6]
  have hm : Config.maxDim = 65535 := rfl
  exact absurd ⟨⟨by omega, by omega⟩, ⟨by omega, by omega⟩, by omega, by omega⟩ h2

theorem checkDst_ok {s : State} {ow oh oc : Nat} (h : DstOk s ow oh oc) : checkDst s ow oh oc = .ok () := by
  obtain ⟨h1, h2⟩ := h
  have ha : s.operands.srcAddr.toNat = s.src.addr := rfl
  unfold checkDst
  dsimp only
  rw [if_neg (by omega), if_neg (by omega)]

theorem checkDst_error {s : State} {ow oh oc : Nat} (h : ¬DstOk s ow oh oc) :
    checkDst s ow oh oc = .error .invalidBuffer := by
  have ha : s.operands.srcAddr.toNat = s.src.addr := rfl
  simp only [DstOk] at h
  unfold checkDst
  dsimp only
  split
  · rfl
  split
  · rfl
  exact absurd ⟨by omega, by omega⟩ h

theorem checkBorder_ok {s : State} {m : Border} (h : BorderIs s m) : checkBorder s = .ok m := by
  rw [checkBorder, h]

/-- Every border code but 3 selects a mode (R110). -/
theorem Border.ofBits_exists {b : BitVec 2} (h : b ≠ 3) : ∃ m, Border.ofBits b = some m := by
  have : ∀ b : BitVec 2, b ≠ 3 → (Border.ofBits b).isSome := by decide
  exact Option.isSome_iff_exists.mp (this b h)

theorem Border.ofBits_reserved : Border.ofBits 3 = none := by decide

theorem checkBorder_error {s : State} (h : s.operands.border = 3) : checkBorder s = .error .invalidParameter := by
  rw [checkBorder, h, Border.ofBits_reserved]

theorem checkKsize_ok {s : State} (h : KsizeOk s) : checkKsize s = .ok s.operands.ksize.toNat := by
  rw [checkKsize, if_pos]; simpa [Config.kernelSizes] using h

theorem checkKsize_error {s : State} (h : ¬KsizeOk s) : checkKsize s = .error .invalidParameter := by
  rw [checkKsize, if_neg]; simpa [Config.kernelSizes] using h

theorem field_high (p : Word) : field p 31 16 = p.toNat / 65536 := by
  have := p.isLt; simp only [field]; omega

theorem field_low (p : Word) : field p 15 0 = p.toNat % 65536 := by
  simp [field]

theorem checkUq88_ok {least : Nat} {p : Word} (h1 : least ≤ p.toNat) (h2 : p.toNat ≤ 65535) :
    checkUq88 least p = .ok p.toNat := by
  rw [checkUq88, field_high, field_low, if_neg (by omega), Nat.mod_eq_of_lt (by omega), if_neg (by omega)]

theorem checkUq88_error {least : Nat} {p : Word} (h : ¬(least ≤ p.toNat ∧ p.toNat ≤ 65535)) :
    checkUq88 least p = .error .invalidParameter := by
  rw [checkUq88, field_high, field_low]
  split
  · rfl
  split
  · rfl
  exact absurd ⟨by omega, by omega⟩ h

theorem checkSigma_ok {s : State} (h : PositiveUq88 s.operands.sigma) :
    checkSigma s = .ok s.operands.sigma.toNat := checkUq88_ok h.1 h.2

theorem checkSigma_error {s : State} (h : ¬PositiveUq88 s.operands.sigma) :
    checkSigma s = .error .invalidParameter := checkUq88_error h

theorem checkGamma_ok {s : State} (h : PositiveUq88 s.operands.gamma) :
    checkGamma s = .ok s.operands.gamma.toNat := checkUq88_ok h.1 h.2

theorem checkGamma_error {s : State} (h : ¬PositiveUq88 s.operands.gamma) :
    checkGamma s = .error .invalidParameter := checkUq88_error h

theorem checkAmount_ok {s : State} (h : Uq88 s.operands.amount) :
    checkAmount s = .ok s.operands.amount.toNat := checkUq88_ok (by omega) h

theorem checkAmount_error {s : State} (h : ¬Uq88 s.operands.amount) :
    checkAmount s = .error .invalidParameter := checkUq88_error (by simp only [Uq88] at h; omega)

theorem checkThresh_ok {s : State} (h : s.operands.thresh.toNat ≤ 255) :
    checkThresh s = .ok s.operands.thresh.toNat := by rw [checkThresh, if_pos h]

theorem checkThresh_error {s : State} (h : ¬s.operands.thresh.toNat ≤ 255) :
    checkThresh s = .error .invalidParameter := by rw [checkThresh, if_neg h]

theorem checkNewDim_ok {p : Word} (h : NewDimOk p) : checkNewDim p = .ok p.toNat := by
  rw [checkNewDim, if_pos (by simpa [Config.maxDim] using h)]

theorem checkNewDim_error {p : Word} (h : ¬NewDimOk p) : checkNewDim p = .error .invalidParameter := by
  rw [checkNewDim, if_neg (by simpa [Config.maxDim] using h)]

/-! The sequences of checks: what each command's checks answer when all pass. -/

@[simp] theorem except_ok_bind {α β : Type} (a : α) (f : α → Except ErrorKind β) :
    (Except.ok a >>= f) = f a := rfl

@[simp] theorem except_error_bind {α β : Type} (e : ErrorKind) (f : α → Except ErrorKind β) :
    ((Except.error e : Except ErrorKind α) >>= f) = .error e := rfl

theorem checksPoint_ok {s : State} (h : SrcOk s) (hd : DstOk s s.src.w s.src.h s.src.c) :
    checksPoint s = .ok s.src := by
  simp [checksPoint, checkSrc_ok h, checkDst_ok hd]

theorem checksGamma_ok {s : State} (h : SrcOk s) (hp : PositiveUq88 s.operands.gamma)
    (hd : DstOk s s.src.w s.src.h s.src.c) : checksGamma s = .ok (s.src, s.operands.gamma.toNat) := by
  simp [checksGamma, checkSrc_ok h, checkGamma_ok hp, checkDst_ok hd]

theorem checksThresh_ok {s : State} (h : SrcOk s) (hp : s.operands.thresh.toNat ≤ 255)
    (hd : DstOk s s.src.w s.src.h 1) : checksThresh s = .ok (s.src, s.operands.thresh.toNat) := by
  simp [checksThresh, checkSrc_ok h, checkThresh_ok hp, checkDst_ok hd]

theorem checksConv_ok {s : State} {m : Border} (h : SrcOk s) (hm : BorderIs s m) (hk : KsizeOk s)
    (hd : DstOk s s.src.w s.src.h s.src.c) : checksConv s = .ok ⟨s.src, m, s.operands.ksize.toNat⟩ := by
  simp [checksConv, checkSrc_ok h, checkBorder_ok hm, checkKsize_ok hk, checkDst_ok hd]

theorem checksGauss_ok {s : State} {m : Border} (h : SrcOk s) (hm : BorderIs s m) (hk : KsizeOk s)
    (hs : PositiveUq88 s.operands.sigma) (hd : DstOk s s.src.w s.src.h s.src.c) :
    checksGauss s = .ok (⟨s.src, m, s.operands.ksize.toNat⟩, s.operands.sigma.toNat) := by
  simp [checksGauss, checkSrc_ok h, checkBorder_ok hm, checkKsize_ok hk, checkSigma_ok hs, checkDst_ok hd]

theorem checksUnsharp_ok {s : State} {m : Border} (h : SrcOk s) (hm : BorderIs s m) (hk : KsizeOk s)
    (hs : PositiveUq88 s.operands.sigma) (ha : Uq88 s.operands.amount) (hd : DstOk s s.src.w s.src.h s.src.c) :
    checksUnsharp s =
      .ok (⟨s.src, m, s.operands.ksize.toNat⟩, s.operands.sigma.toNat, s.operands.amount.toNat) := by
  simp [checksUnsharp, checkSrc_ok h, checkBorder_ok hm, checkKsize_ok hk, checkSigma_ok hs, checkAmount_ok ha,
    checkDst_ok hd]

theorem checksSobel_ok {s : State} {m : Border} (h : SrcOk s) (hm : BorderIs s m)
    (hd : DstOk s s.src.w s.src.h 1) : checksSobel s = .ok (s.src, m) := by
  simp [checksSobel, checkSrc_ok h, checkBorder_ok hm, checkDst_ok hd]

theorem checksResize_ok {s : State} (h : SrcOk s) (hw : NewDimOk s.operands.newW) (hh : NewDimOk s.operands.newH)
    (hd : DstOk s s.operands.newW.toNat s.operands.newH.toNat s.src.c) :
    checksResize s = .ok (s.src, s.operands.newW.toNat, s.operands.newH.toNat) := by
  simp [checksResize, checkSrc_ok h, checkNewDim_ok hw, checkNewDim_ok hh, checkDst_ok hd]

/-- N is 0 exactly when every entry is (R177). -/
theorem mass_histogram_eq_zero (s : State) : mass s.histogram = 0 ↔ HistogramEmpty s := by
  simp [mass, State.histogram, HistogramEmpty, Config.hmemEntries, List.sum_eq_zero_iff]

theorem checkHistogram_ok {s : State} (h : ¬HistogramEmpty s) : checkHistogram s = .ok s.histogram := by
  rw [checkHistogram, if_neg (by rwa [mass_histogram_eq_zero])]

theorem checkHistogram_error {s : State} (h : HistogramEmpty s) : checkHistogram s = .error .invalidBuffer := by
  rw [checkHistogram, if_pos (by rwa [mass_histogram_eq_zero])]

end Sys2Proof.Machine
end

