-- ==== Sys2Proof/Laws/Memory.lean ====
section
/-! SUPPORT. The laws of the sparse memories: what a read finds after a store, and that every store keeps the canonical
form. -/

namespace Sys2Proof.Machine

variable {α : Type}

@[simp] theorem Memory.get?_nil (a : Nat) : Memory.get? ([] : Memory α) a = none := rfl

@[simp] theorem Memory.get?_cons (k : Nat) (v : α) (m : Memory α) (a : Nat) :
    Memory.get? ((k, v) :: m) a = if k = a then some v else Memory.get? m a := rfl

theorem Memory.get?_append (m n : Memory α) (a : Nat) :
    Memory.get? (m ++ n) a = (Memory.get? m a).or (Memory.get? n a) := by
  induction m with
  | nil => simp
  | cons c m ih => obtain ⟨k, v⟩ := c; by_cases h : k = a <;> simp [h, ih]

theorem Memory.get?_filter (p : Nat → Bool) (m : Memory α) (a : Nat) :
    Memory.get? (m.filter fun c => p c.1) a = if p a then Memory.get? m a else none := by
  induction m with
  | nil => simp
  | cons c m ih =>
    obtain ⟨k, v⟩ := c
    by_cases h : k = a
    · subst h; by_cases hp : p k <;> simp [hp, ih]
    · by_cases hp : p k <;> simp [hp, h, ih]

theorem Memory.get?_cells (base : Nat) (vals : List α) (a : Nat) :
    Memory.get? (Memory.cells base vals) a = if base ≤ a then vals[a - base]? else none := by
  induction vals generalizing base with
  | nil => simp [Memory.cells]
  | cons v vs ih =>
    rw [Memory.cells, Memory.get?_cons, ih]
    rcases Nat.lt_trichotomy a base with h | h | h
    · rw [if_neg (by omega), if_neg (by omega), if_neg (by omega)]
    · subst h; simp
    · rw [if_neg (by omega), if_pos (by omega), if_pos (by omega), show a - base = a - (base + 1) + 1 by omega,
        List.getElem?_cons_succ]

/-- A read after a store: the stored value inside the range, the old one outside. -/
theorem Memory.get?_store (m : Memory α) (base : Nat) (vals : List α) (a : Nat) :
    Memory.get? (Memory.store m base vals) a =
      if base ≤ a ∧ a < base + vals.length then vals[a - base]? else Memory.get? m a := by
  rw [Memory.store, Memory.get?_append, Memory.get?_append,
    Memory.get?_filter (fun k => decide (k < base)) m a,
    Memory.get?_filter (fun k => decide (base + vals.length ≤ k)) m a, Memory.get?_cells]
  rcases Nat.lt_or_ge a base with h | h
  · rw [if_pos (by simpa using h), if_neg (by omega), if_neg (by simp; omega), if_neg (by omega)]
    simp
  · rcases Nat.lt_or_ge a (base + vals.length) with h2 | h2
    · rw [if_neg (by simp; omega), if_pos h, if_neg (by simp; omega), if_pos ⟨h, h2⟩]
      simp
    · rw [if_neg (by simp; omega), if_pos h, if_pos (by simpa using h2), if_neg (by omega),
        List.getElem?_eq_none (by omega)]
      simp

theorem Memory.get?_store_outside (m : Memory α) (base : Nat) (vals : List α) (a : Nat)
    (h : a < base ∨ base + vals.length ≤ a) : Memory.get? (Memory.store m base vals) a = Memory.get? m a := by
  rw [Memory.get?_store, if_neg (by omega)]

theorem Memory.get?_store_inside (m : Memory α) (base : Nat) (vals : List α) (i : Nat) (h : i < vals.length) :
    Memory.get? (Memory.store m base vals) (base + i) = some vals[i] := by
  rw [Memory.get?_store, if_pos (by omega), Nat.add_sub_cancel_left, List.getElem?_eq_getElem h]

theorem Memory.mem_cells {base : Nat} {vals : List α} {c : Nat × α} (h : c ∈ Memory.cells base vals) :
    base ≤ c.1 ∧ c.1 < base + vals.length := by
  induction vals generalizing base with
  | nil => simp [Memory.cells] at h
  | cons v vs ih =>
    rw [Memory.cells, List.mem_cons] at h
    rcases h with rfl | h
    · simp
    · have := ih h; simp; omega

theorem Memory.cells_rising (base : Nat) (vals : List α) :
    ((Memory.cells base vals).map Prod.fst).Pairwise (· < ·) := by
  induction vals generalizing base with
  | nil => simp [Memory.cells]
  | cons v vs ih =>
    rw [Memory.cells, List.map_cons, List.pairwise_cons]
    refine ⟨fun k hk => ?_, ih _⟩
    obtain ⟨c, hc, rfl⟩ := List.mem_map.mp hk
    have := Memory.mem_cells hc
    simp; omega

theorem Memory.nil_wf (size : Nat) : Memory.wf size ([] : Memory α) := by simp [Memory.wf]

/-- Every store inside the memory's size keeps the canonical form. -/
theorem Memory.store_wf {size : Nat} {m : Memory α} {base : Nat} {vals : List α} (h : Memory.wf size m)
    (hb : base + vals.length ≤ size) : Memory.wf size (Memory.store m base vals) := by
  obtain ⟨hr, hs⟩ := h
  have sub (p : Nat × α → Bool) : ((m.filter p).map Prod.fst).Pairwise (· < ·) :=
    List.Pairwise.sublist (List.Sublist.map _ List.filter_sublist) hr
  refine ⟨?_, fun c hc => ?_⟩
  · rw [Memory.store, List.map_append, List.map_append, List.pairwise_append, List.pairwise_append]
    refine ⟨⟨sub _, Memory.cells_rising _ _, ?_⟩, sub _, ?_⟩
    · intro a ha b hb'
      obtain ⟨c, hc, rfl⟩ := List.mem_map.mp ha
      obtain ⟨d, hd, rfl⟩ := List.mem_map.mp hb'
      have := (List.mem_filter.mp hc).2
      have := Memory.mem_cells hd
      simp at *; omega
    · intro a ha b hb'
      obtain ⟨d, hd, rfl⟩ := List.mem_map.mp hb'
      have h1 := (List.mem_filter.mp hd).2
      rw [List.mem_append] at ha
      rcases ha with ha | ha <;> obtain ⟨c, hc, rfl⟩ := List.mem_map.mp ha
      · have := (List.mem_filter.mp hc).2
        simp at *; omega
      · have := Memory.mem_cells hc
        simp at *; omega
  · rw [Memory.store, List.mem_append, List.mem_append] at hc
    rcases hc with (hc | hc) | hc
    · exact hs c (List.mem_filter.mp hc).1
    · have := Memory.mem_cells hc; omega
    · exact hs c (List.mem_filter.mp hc).1

@[simp] theorem raster_length (w h c : Nat) (out : Nat → Nat → Nat → Byte) : (raster w h c out).length = w * h * c := by
  simp [raster]

/-- A sample's place in a raster is inside it (R78). -/
theorem raster_index_lt {w h c x y k : Nat} (hx : x < w) (hy : y < h) (hk : k < c) :
    (y * w + x) * c + k < w * h * c := by
  have h1 : y * w + x < w * h := by
    calc y * w + x < y * w + w := by omega
      _ = (y + 1) * w := by ring
      _ ≤ h * w := Nat.mul_le_mul_right _ hy
      _ = w * h := Nat.mul_comm _ _
  calc (y * w + x) * c + k < (y * w + x) * c + c := by omega
    _ = (y * w + x + 1) * c := by ring
    _ ≤ w * h * c := Nat.mul_le_mul_right _ h1

/-- The sample that stands at its place in a raster (R78, R79). -/
theorem raster_getElem? {w h c x y k : Nat} (out : Nat → Nat → Nat → Byte) (hx : x < w) (hy : y < h) (hk : k < c) :
    (raster w h c out)[(y * w + x) * c + k]? = some (out x y k) := by
  have hlt := raster_index_lt hx hy hk
  have h1 : ((y * w + x) * c + k) / c = y * w + x := by
    rw [Nat.add_comm, Nat.add_mul_div_right _ _ (by omega), Nat.div_eq_of_lt hk, Nat.zero_add]
  have h2 : ((y * w + x) * c + k) % c = k := by
    rw [Nat.add_comm, Nat.add_mul_mod_self_right, Nat.mod_eq_of_lt hk]
  have h3 : (y * w + x) % w = x := by
    rw [Nat.add_comm, Nat.add_mul_mod_self_right, Nat.mod_eq_of_lt hx]
  have h4 : (y * w + x) / w = y := by
    rw [Nat.add_comm, Nat.add_mul_div_right _ _ (by omega), Nat.div_eq_of_lt hx, Nat.zero_add]
  rw [raster, List.getElem?_map, List.getElem?_range hlt]
  simp [h1, h2, h3, h4]

end Sys2Proof.Machine
end

