-- ==== Sys2Proof/Laws/State.lean ====
section
/-! SUPPORT. What each update of the state does to each field: one theorem per update, whose parts simp uses one by one. -/

namespace Sys2Proof.Machine

/-- Acceptance (R120). -/
@[simp] theorem State.accept_fields (w : Word) (s : State) :
    (s.accept w).operands = s.operands ∧ (s.accept w).status = s.status.accepted ∧ (s.accept w).irqEn = s.irqEn ∧
    (s.accept w).cmd = w ∧ (s.accept w).out = s.out ∧ (s.accept w).otsuT = s.otsuT ∧ (s.accept w).hmem = s.hmem ∧
    (s.accept w).kmem = s.kmem ∧ (s.accept w).lut = s.lut ∧ (s.accept w).bmem = s.bmem ∧
    (s.accept w).bmemBytes = s.bmemBytes ∧ (s.accept w).draws = s.draws ∧ (s.accept w).inbox = s.inbox ∧
    (s.accept w).schedule = s.schedule ∧ (s.accept w).responses = s.responses :=
  ⟨rfl, rfl, rfl, rfl, rfl, rfl, rfl, rfl, rfl, rfl, rfl, rfl, rfl, rfl, rfl⟩

/-- The error completion (R275). -/
@[simp] theorem State.takeError_fields (e : ErrorKind) (s : State) :
    (s.takeError e).operands = s.operands ∧ (s.takeError e).status = s.status.failed e ∧
    (s.takeError e).irqEn = s.irqEn ∧ (s.takeError e).cmd = s.cmd ∧ (s.takeError e).out = s.out ∧
    (s.takeError e).otsuT = s.otsuT ∧ (s.takeError e).hmem = s.hmem ∧ (s.takeError e).kmem = s.kmem ∧
    (s.takeError e).lut = s.lut ∧ (s.takeError e).bmem = s.bmem ∧ (s.takeError e).bmemBytes = s.bmemBytes ∧
    (s.takeError e).draws = s.draws ∧ (s.takeError e).inbox = s.inbox ∧ (s.takeError e).schedule = s.schedule ∧
    (s.takeError e).responses = s.responses :=
  ⟨rfl, rfl, rfl, rfl, rfl, rfl, rfl, rfl, rfl, rfl, rfl, rfl, rfl, rfl, rfl⟩

/-- A write to STATUS (R24). -/
@[simp] theorem State.acknowledge_fields (v : Word) (s : State) :
    (s.acknowledge v).operands = s.operands ∧ (s.acknowledge v).status = s.status.cleared v ∧
    (s.acknowledge v).irqEn = s.irqEn ∧ (s.acknowledge v).cmd = s.cmd ∧ (s.acknowledge v).out = s.out ∧
    (s.acknowledge v).otsuT = s.otsuT ∧ (s.acknowledge v).hmem = s.hmem ∧ (s.acknowledge v).kmem = s.kmem ∧
    (s.acknowledge v).lut = s.lut ∧ (s.acknowledge v).bmem = s.bmem ∧ (s.acknowledge v).bmemBytes = s.bmemBytes ∧
    (s.acknowledge v).draws = s.draws ∧ (s.acknowledge v).inbox = s.inbox ∧ (s.acknowledge v).schedule = s.schedule ∧
    (s.acknowledge v).responses = s.responses :=
  ⟨rfl, rfl, rfl, rfl, rfl, rfl, rfl, rfl, rfl, rfl, rfl, rfl, rfl, rfl, rfl⟩

/-- The end of the success completion (R127). -/
@[simp] theorem State.succeed_fields (s : State) :
    s.succeed.operands = s.operands ∧ s.succeed.status = s.status.succeeded ∧ s.succeed.irqEn = s.irqEn ∧
    s.succeed.cmd = s.cmd ∧ s.succeed.out = s.out ∧ s.succeed.otsuT = s.otsuT ∧ s.succeed.hmem = s.hmem ∧
    s.succeed.kmem = s.kmem ∧ s.succeed.lut = s.lut ∧ s.succeed.bmem = s.bmem ∧ s.succeed.bmemBytes = s.bmemBytes ∧
    s.succeed.draws = s.draws ∧ s.succeed.inbox = s.inbox ∧ s.succeed.schedule = s.schedule ∧
    s.succeed.responses = s.responses :=
  ⟨rfl, rfl, rfl, rfl, rfl, rfl, rfl, rfl, rfl, rfl, rfl, rfl, rfl, rfl, rfl⟩

/-- A host store to BMEM (R74). -/
@[simp] theorem State.memWrite_fields (a n : Nat) (v : Word) (s : State) :
    (s.memWrite a n v).operands = s.operands ∧ (s.memWrite a n v).status = s.status ∧
    (s.memWrite a n v).irqEn = s.irqEn ∧ (s.memWrite a n v).cmd = s.cmd ∧ (s.memWrite a n v).out = s.out ∧
    (s.memWrite a n v).otsuT = s.otsuT ∧ (s.memWrite a n v).hmem = s.hmem ∧ (s.memWrite a n v).kmem = s.kmem ∧
    (s.memWrite a n v).lut = s.lut ∧ (s.memWrite a n v).bmem = Memory.store s.bmem a (bytesOf n v) ∧
    (s.memWrite a n v).bmemBytes = s.bmemBytes ∧ (s.memWrite a n v).draws = s.draws ∧
    (s.memWrite a n v).inbox = s.inbox ∧ (s.memWrite a n v).schedule = s.schedule ∧
    (s.memWrite a n v).responses = s.responses :=
  ⟨rfl, rfl, rfl, rfl, rfl, rfl, rfl, rfl, rfl, rfl, rfl, rfl, rfl, rfl, rfl⟩

/-- The output buffer (R79, R129). -/
@[simp] theorem State.produce_fields (w h c : Nat) (f : Nat → Nat → Nat → Byte) (s : State) :
    (s.produce w h c f).operands = s.operands ∧ (s.produce w h c f).status = s.status ∧
    (s.produce w h c f).irqEn = s.irqEn ∧ (s.produce w h c f).cmd = s.cmd ∧
    (s.produce w h c f).out = ⟨BitVec.ofNat 32 w, BitVec.ofNat 32 h, BitVec.ofNat 32 c, BitVec.ofNat 32 (w * h * c)⟩ ∧
    (s.produce w h c f).otsuT = s.otsuT ∧ (s.produce w h c f).hmem = s.hmem ∧ (s.produce w h c f).kmem = s.kmem ∧
    (s.produce w h c f).lut = s.lut ∧
    (s.produce w h c f).bmem = Memory.store s.bmem s.operands.dstAddr.toNat (raster w h c f) ∧
    (s.produce w h c f).bmemBytes = s.bmemBytes ∧ (s.produce w h c f).draws = s.draws ∧
    (s.produce w h c f).inbox = s.inbox ∧ (s.produce w h c f).schedule = s.schedule ∧
    (s.produce w h c f).responses = s.responses :=
  ⟨rfl, rfl, rfl, rfl, rfl, rfl, rfl, rfl, rfl, rfl, rfl, rfl, rfl, rfl, rfl⟩

/-- The LUT (R142). -/
@[simp] theorem State.writeLut_fields (f : Nat → Nat) (s : State) :
    (s.writeLut f).operands = s.operands ∧ (s.writeLut f).status = s.status ∧ (s.writeLut f).irqEn = s.irqEn ∧
    (s.writeLut f).cmd = s.cmd ∧ (s.writeLut f).out = s.out ∧ (s.writeLut f).otsuT = s.otsuT ∧
    (s.writeLut f).hmem = s.hmem ∧ (s.writeLut f).kmem = s.kmem ∧
    (s.writeLut f).lut = Memory.store s.lut 0 ((List.range 256).map fun v => BitVec.ofNat 8 (f v)) ∧
    (s.writeLut f).bmem = s.bmem ∧ (s.writeLut f).bmemBytes = s.bmemBytes ∧ (s.writeLut f).draws = s.draws ∧
    (s.writeLut f).inbox = s.inbox ∧ (s.writeLut f).schedule = s.schedule ∧ (s.writeLut f).responses = s.responses :=
  ⟨rfl, rfl, rfl, rfl, rfl, rfl, rfl, rfl, rfl, rfl, rfl, rfl, rfl, rfl, rfl⟩

/-- HMEM (R170). -/
@[simp] theorem State.writeHmem_fields (h : Nat → Nat) (s : State) :
    (s.writeHmem h).operands = s.operands ∧ (s.writeHmem h).status = s.status ∧ (s.writeHmem h).irqEn = s.irqEn ∧
    (s.writeHmem h).cmd = s.cmd ∧ (s.writeHmem h).out = s.out ∧ (s.writeHmem h).otsuT = s.otsuT ∧
    (s.writeHmem h).hmem = Memory.store s.hmem 0 ((List.range 256).map fun i => BitVec.ofNat 32 (h i)) ∧
    (s.writeHmem h).kmem = s.kmem ∧ (s.writeHmem h).lut = s.lut ∧ (s.writeHmem h).bmem = s.bmem ∧
    (s.writeHmem h).bmemBytes = s.bmemBytes ∧ (s.writeHmem h).draws = s.draws ∧ (s.writeHmem h).inbox = s.inbox ∧
    (s.writeHmem h).schedule = s.schedule ∧ (s.writeHmem h).responses = s.responses :=
  ⟨rfl, rfl, rfl, rfl, rfl, rfl, rfl, rfl, rfl, rfl, rfl, rfl, rfl, rfl, rfl⟩

/-- KMEM (R200). -/
@[simp] theorem State.writeKmem_fields (z : Nat) (g : Nat → Nat) (s : State) :
    (s.writeKmem z g).operands = s.operands ∧ (s.writeKmem z g).status = s.status ∧
    (s.writeKmem z g).irqEn = s.irqEn ∧ (s.writeKmem z g).cmd = s.cmd ∧ (s.writeKmem z g).out = s.out ∧
    (s.writeKmem z g).otsuT = s.otsuT ∧ (s.writeKmem z g).hmem = s.hmem ∧
    (s.writeKmem z g).kmem = Memory.store s.kmem 0 ((List.range z).map fun n => BitVec.ofNat 32 (g n)) ∧
    (s.writeKmem z g).lut = s.lut ∧ (s.writeKmem z g).bmem = s.bmem ∧ (s.writeKmem z g).bmemBytes = s.bmemBytes ∧
    (s.writeKmem z g).draws = s.draws ∧ (s.writeKmem z g).inbox = s.inbox ∧ (s.writeKmem z g).schedule = s.schedule ∧
    (s.writeKmem z g).responses = s.responses :=
  ⟨rfl, rfl, rfl, rfl, rfl, rfl, rfl, rfl, rfl, rfl, rfl, rfl, rfl, rfl, rfl⟩

/-- OTSU_T (R172). -/
@[simp] theorem State.writeOtsu_fields (t : Nat) (s : State) :
    (s.writeOtsu t).operands = s.operands ∧ (s.writeOtsu t).status = s.status ∧ (s.writeOtsu t).irqEn = s.irqEn ∧
    (s.writeOtsu t).cmd = s.cmd ∧ (s.writeOtsu t).out = s.out ∧ (s.writeOtsu t).otsuT = BitVec.ofNat 8 t ∧
    (s.writeOtsu t).hmem = s.hmem ∧ (s.writeOtsu t).kmem = s.kmem ∧ (s.writeOtsu t).lut = s.lut ∧
    (s.writeOtsu t).bmem = s.bmem ∧ (s.writeOtsu t).bmemBytes = s.bmemBytes ∧ (s.writeOtsu t).draws = s.draws ∧
    (s.writeOtsu t).inbox = s.inbox ∧ (s.writeOtsu t).schedule = s.schedule ∧
    (s.writeOtsu t).responses = s.responses :=
  ⟨rfl, rfl, rfl, rfl, rfl, rfl, rfl, rfl, rfl, rfl, rfl, rfl, rfl, rfl, rfl⟩

/-- A dropped host write (R304). -/
@[simp] theorem State.drop_fields (s : State) :
    s.drop.operands = s.operands ∧ s.drop.status = s.status.dropped ∧ s.drop.irqEn = s.irqEn ∧ s.drop.cmd = s.cmd ∧
    s.drop.out = s.out ∧ s.drop.otsuT = s.otsuT ∧ s.drop.hmem = s.hmem ∧ s.drop.kmem = s.kmem ∧ s.drop.lut = s.lut ∧
    s.drop.bmem = s.bmem ∧ s.drop.bmemBytes = s.bmemBytes ∧ s.drop.draws = s.draws ∧ s.drop.inbox = s.inbox ∧
    s.drop.schedule = s.schedule ∧ s.drop.responses = s.responses :=
  ⟨rfl, rfl, rfl, rfl, rfl, rfl, rfl, rfl, rfl, rfl, rfl, rfl, rfl, rfl, rfl⟩

/-- A port answer. -/
@[simp] theorem State.answer_fields (a : Answer) (s : State) :
    (s.answer a).operands = s.operands ∧ (s.answer a).status = s.status ∧ (s.answer a).irqEn = s.irqEn ∧
    (s.answer a).cmd = s.cmd ∧ (s.answer a).out = s.out ∧ (s.answer a).otsuT = s.otsuT ∧ (s.answer a).hmem = s.hmem ∧
    (s.answer a).kmem = s.kmem ∧ (s.answer a).lut = s.lut ∧ (s.answer a).bmem = s.bmem ∧
    (s.answer a).bmemBytes = s.bmemBytes ∧ (s.answer a).draws = s.draws ∧ (s.answer a).inbox = s.inbox ∧
    (s.answer a).schedule = s.schedule ∧ (s.answer a).responses = a :: s.responses :=
  ⟨rfl, rfl, rfl, rfl, rfl, rfl, rfl, rfl, rfl, rfl, rfl, rfl, rfl, rfl, rfl⟩

/-- Reset (R301, R302). -/
@[simp] theorem State.assertReset_fields (s : State) :
    s.assertReset.operands = OperandRegs.reset ∧ s.assertReset.status = Status.reset ∧
    s.assertReset.irqEn = ⟨false, false⟩ ∧ s.assertReset.cmd = 0 ∧ s.assertReset.out = ⟨0, 0, 0, 0⟩ ∧
    s.assertReset.otsuT = 0 ∧ s.assertReset.hmem = [] ∧ s.assertReset.kmem = [] ∧ s.assertReset.lut = [] ∧
    s.assertReset.bmem = [] ∧ s.assertReset.bmemBytes = s.bmemBytes ∧ s.assertReset.draws = s.draws ∧
    s.assertReset.inbox = s.inbox ∧ s.assertReset.schedule = s.schedule ∧ s.assertReset.responses = s.responses :=
  ⟨rfl, rfl, rfl, rfl, rfl, rfl, rfl, rfl, rfl, rfl, rfl, rfl, rfl, rfl, rfl⟩

/-- The start of a move (log 3, 5). -/
@[simp] theorem State.turn_fields (s : State) :
    s.turn.operands = s.operands ∧ s.turn.status = s.status ∧ s.turn.irqEn = s.irqEn ∧ s.turn.cmd = s.cmd ∧
    s.turn.out = s.out ∧ s.turn.otsuT = s.otsuT ∧ s.turn.hmem = s.hmem ∧ s.turn.kmem = s.kmem ∧ s.turn.lut = s.lut ∧
    s.turn.bmem = s.bmem ∧ s.turn.bmemBytes = s.bmemBytes ∧ s.turn.draws = s.draws + 1 ∧ s.turn.inbox = s.inbox ∧
    s.turn.schedule = (if s.status.busy then s.schedule.tail else s.schedule) ∧ s.turn.responses = s.responses :=
  ⟨rfl, rfl, rfl, rfl, rfl, rfl, rfl, rfl, rfl, rfl, rfl, rfl, rfl, rfl, rfl⟩

/-- A placed command (log 15). -/
@[simp] theorem State.placeCommand_fields (w : Word) (s : State) :
    (s.placeCommand w).operands = s.operands ∧ (s.placeCommand w).status = s.status.accepted ∧
    (s.placeCommand w).irqEn = s.irqEn ∧ (s.placeCommand w).cmd = w ∧ (s.placeCommand w).out = s.out ∧
    (s.placeCommand w).otsuT = s.otsuT ∧ (s.placeCommand w).hmem = s.hmem ∧ (s.placeCommand w).kmem = s.kmem ∧
    (s.placeCommand w).lut = s.lut ∧ (s.placeCommand w).bmem = s.bmem ∧ (s.placeCommand w).bmemBytes = s.bmemBytes ∧
    (s.placeCommand w).draws = s.draws ∧ (s.placeCommand w).inbox = s.inbox ∧
    (s.placeCommand w).schedule = .engine :: s.schedule ∧ (s.placeCommand w).responses = s.responses :=
  ⟨rfl, rfl, rfl, rfl, rfl, rfl, rfl, rfl, rfl, rfl, rfl, rfl, rfl, rfl, rfl⟩

@[simp] theorem Status.accepted_fields (f : Status) :
    f.accepted.busy = true ∧ f.accepted.done = false ∧ f.accepted.err = false ∧ f.accepted.busyWr = f.busyWr ∧
    f.accepted.errCode = 0 :=
  ⟨rfl, rfl, rfl, rfl, rfl⟩

@[simp] theorem Status.succeeded_fields (f : Status) :
    f.succeeded.busy = false ∧ f.succeeded.done = true ∧ f.succeeded.err = f.err ∧ f.succeeded.busyWr = f.busyWr ∧
    f.succeeded.errCode = f.errCode :=
  ⟨rfl, rfl, rfl, rfl, rfl⟩

@[simp] theorem Status.failed_fields (e : ErrorKind) (f : Status) :
    (f.failed e).busy = false ∧ (f.failed e).done = f.done ∧ (f.failed e).err = true ∧
    (f.failed e).busyWr = f.busyWr ∧ (f.failed e).errCode = e.code :=
  ⟨rfl, rfl, rfl, rfl, rfl⟩

@[simp] theorem Status.dropped_fields (f : Status) :
    f.dropped.busy = f.busy ∧ f.dropped.done = f.done ∧ f.dropped.err = f.err ∧ f.dropped.busyWr = true ∧
    f.dropped.errCode = f.errCode :=
  ⟨rfl, rfl, rfl, rfl, rfl⟩

@[simp] theorem Status.cleared_fields (v : Word) (f : Status) :
    (f.cleared v).busy = f.busy ∧ (f.cleared v).done = (f.done && !v.getLsbD 1) ∧
    (f.cleared v).err = (f.err && !v.getLsbD 2) ∧ (f.cleared v).busyWr = (f.busyWr && !v.getLsbD 3) ∧
    (f.cleared v).errCode = (if v.getLsbD 2 then 0 else f.errCode) :=
  ⟨rfl, rfl, rfl, rfl, rfl⟩

/-- Every change of STATUS keeps it legal (R24), where it starts from the state it can start from. -/
theorem Status.reset_legal : StatusLegal Status.reset := by simp [StatusLegal, Status.reset]

theorem Status.accepted_legal (f : Status) : StatusLegal f.accepted := by simp [StatusLegal]

theorem Status.succeeded_legal {f : Status} (h : StatusLegal f) (hb : f.busy = true) : StatusLegal f.succeeded := by
  obtain ⟨h1, h2, h3, h4, h5⟩ := h
  have he : f.err = false := by simpa [hb] using h2
  simp_all [StatusLegal]

theorem Status.failed_legal {f : Status} (e : ErrorKind) (h : StatusLegal f) (hb : f.busy = true) :
    StatusLegal (f.failed e) := by
  obtain ⟨h1, h2, h3, h4, h5⟩ := h
  have hd : f.done = false := by simpa [hb] using h1
  cases e <;> simp [StatusLegal, hd, ErrorKind.code]

theorem Status.dropped_legal {f : Status} (h : StatusLegal f) : StatusLegal f.dropped := by
  simpa [StatusLegal] using h

theorem Status.cleared_legal {f : Status} (v : Word) (h : StatusLegal f) : StatusLegal (f.cleared v) := by
  obtain ⟨h1, h2, h3, h4, h5⟩ := h
  cases hv : v.getLsbD 2
  · simp only [StatusLegal, Status.cleared_fields, hv]
    refine ⟨?_, ?_, ?_, ?_, ?_⟩ <;> simp_all
  · simp only [StatusLegal, Status.cleared_fields, hv]
    refine ⟨?_, ?_, ?_, ?_, ?_⟩ <;> simp_all

end Sys2Proof.Machine
end

