-- ==== Sys2Proof/Laws/Exec.lean ====
section
/-! SUPPORT. What each command does: its completion when its checks pass, and one inversion lemma, `exec_cases`, that
says everything a command can do. -/

namespace Sys2Proof.Machine

/-! The completion of each command when its checks pass. -/

theorem settle_ok {α : Type} {c : Except ErrorKind α} {a : α} (f : α → State → State) (s : State) (h : c = .ok a) :
    settle c f s = (f a s).succeed := by rw [h]; rfl

theorem settle_error {α : Type} {c : Except ErrorKind α} {e : ErrorKind} (f : α → State → State) (s : State)
    (h : c = .error e) : settle c f s = s.takeError e := by rw [h]; rfl

theorem execNeg_ok {s : State} (h : SrcOk s) (hd : DstOk s s.src.w s.src.h s.src.c) :
    execNeg s = .next (commitPoint negTable s.src s).succeed := by
  rw [execNeg, settle_ok _ _ (checksPoint_ok h hd)]

theorem execLog_ok {s : State} (h : SrcOk s) (hd : DstOk s s.src.w s.src.h s.src.c) :
    execLog s = .next (commitPoint logTable s.src s).succeed := by
  rw [execLog, settle_ok _ _ (checksPoint_ok h hd)]

theorem execGamma_ok {s : State} (h : SrcOk s) (hp : PositiveUq88 s.operands.gamma)
    (hd : DstOk s s.src.w s.src.h s.src.c) :
    execGamma s = .next (commitPoint (gammaTable s.operands.gamma.toNat) s.src s).succeed := by
  rw [execGamma, settle_ok _ _ (checksGamma_ok h hp hd)]

theorem execThresh_ok {s : State} (h : SrcOk s) (hp : s.operands.thresh.toNat ≤ 255)
    (hd : DstOk s s.src.w s.src.h 1) :
    execThresh s = .next (commitGrayPoint (threshTable s.operands.thresh.toNat) s.src s).succeed := by
  rw [execThresh, settle_ok _ _ (checksThresh_ok h hp hd)]

theorem execHist_ok {s : State} (h : SrcOk s) :
    execHist s = .next (s.writeHmem fun i => (s.grayList s.src).count i).succeed := by
  rw [execHist, settle_ok _ _ (checkSrc_ok h)]

theorem execOtsu_ok {s : State} (h : ¬HistogramEmpty s) :
    execOtsu s = .next (s.writeOtsu (s.otsuResult s.histogram)).succeed := by
  rw [execOtsu, settle_ok _ _ (checkHistogram_ok h)]

theorem execConv_ok {s : State} {m : Border} (h : SrcOk s) (hm : BorderIs s m) (hk : KsizeOk s)
    (hd : DstOk s s.src.w s.src.h s.src.c) :
    execConv s = .next (commitConv ⟨s.src, m, s.operands.ksize.toNat⟩ s).succeed := by
  rw [execConv, settle_ok _ _ (checksConv_ok h hm hk hd)]

theorem execBox_ok {s : State} {m : Border} (h : SrcOk s) (hm : BorderIs s m) (hk : KsizeOk s)
    (hd : DstOk s s.src.w s.src.h s.src.c) :
    execBox s = .next (commitBox ⟨s.src, m, s.operands.ksize.toNat⟩ s).succeed := by
  rw [execBox, settle_ok _ _ (checksConv_ok h hm hk hd)]

theorem execGauss_ok {s : State} {m : Border} (h : SrcOk s) (hm : BorderIs s m) (hk : KsizeOk s)
    (hs : PositiveUq88 s.operands.sigma) (hd : DstOk s s.src.w s.src.h s.src.c) :
    execGauss s = .next (commitGauss ⟨s.src, m, s.operands.ksize.toNat⟩
      (gcoef s.operands.ksize.toNat s.operands.sigma.toNat) s).succeed := by
  rw [execGauss, settle_ok _ _ (checksGauss_ok h hm hk hs hd)]

theorem execUnsharp_ok {s : State} {m : Border} (h : SrcOk s) (hm : BorderIs s m) (hk : KsizeOk s)
    (hs : PositiveUq88 s.operands.sigma) (ha : Uq88 s.operands.amount) (hd : DstOk s s.src.w s.src.h s.src.c) :
    execUnsharp s = .next (commitUnsharp ⟨s.src, m, s.operands.ksize.toNat⟩
      (gcoef s.operands.ksize.toNat s.operands.sigma.toNat) s.operands.amount.toNat s).succeed := by
  rw [execUnsharp, settle_ok _ _ (checksUnsharp_ok h hm hk hs ha hd)]

theorem execSobel_ok {s : State} {m : Border} (h : SrcOk s) (hm : BorderIs s m) (hd : DstOk s s.src.w s.src.h 1) :
    execSobel s = .next (commitSobel s.src m s).succeed := by
  rw [execSobel, settle_ok _ _ (checksSobel_ok h hm hd)]

theorem execResizeNn_ok {s : State} (h : SrcOk s) (hw : NewDimOk s.operands.newW) (hh : NewDimOk s.operands.newH)
    (hd : DstOk s s.operands.newW.toNat s.operands.newH.toNat s.src.c) :
    execResizeNn s = .next (commitResizeNn s.src s.operands.newW.toNat s.operands.newH.toNat s).succeed := by
  rw [execResizeNn, settle_ok _ _ (checksResize_ok h hw hh hd)]

theorem execResizeBl_ok {s : State} (h : SrcOk s) (hw : NewDimOk s.operands.newW) (hh : NewDimOk s.operands.newH)
    (hd : DstOk s s.operands.newW.toNat s.operands.newH.toNat s.src.c) :
    execResizeBl s = .next (commitResizeBl s.src s.operands.newW.toNat s.operands.newH.toNat s).succeed := by
  rw [execResizeBl, settle_ok _ _ (checksResize_ok h hw hh hd)]

/-! Inversion of the checks. -/

theorem bind_eq_ok {α β : Type} {x : Except ErrorKind α} {f : α → Except ErrorKind β} {b : β} :
    (x >>= f) = .ok b ↔ ∃ a, x = .ok a ∧ f a = .ok b := by
  cases x <;> simp

theorem checkSrc_inv {s : State} {b : Buf} (h : checkSrc s = .ok b) : SrcOk s ∧ b = s.src := by
  by_cases hc : ChannelsOk s
  · by_cases hr : SourceRangeOk s
    · rw [checkSrc_ok ⟨hc, hr⟩] at h; exact ⟨⟨hc, hr⟩, by simpa using h.symm⟩
    · rw [checkSrc_range hc hr] at h; cases h
  · rw [checkSrc_channels hc] at h; cases h

theorem checkDst_inv {s : State} {ow oh oc : Nat} {u : Unit} (h : checkDst s ow oh oc = .ok u) : DstOk s ow oh oc := by
  by_cases hd : DstOk s ow oh oc
  · exact hd
  · rw [checkDst_error hd] at h; cases h

theorem checkNewDim_inv {p : Word} {n : Nat} (h : checkNewDim p = .ok n) : NewDimOk p ∧ n = p.toNat := by
  by_cases hp : NewDimOk p
  · rw [checkNewDim_ok hp] at h; exact ⟨hp, by simpa using h.symm⟩
  · rw [checkNewDim_error hp] at h; cases h

theorem checkKsize_inv {s : State} {k : Nat} (h : checkKsize s = .ok k) : KsizeOk s ∧ k = s.operands.ksize.toNat := by
  by_cases hp : KsizeOk s
  · rw [checkKsize_ok hp] at h; exact ⟨hp, by simpa using h.symm⟩
  · rw [checkKsize_error hp] at h; cases h

/-- What a success completion leaves unchanged whichever the command (R46, R127). -/
structure Untouched (s t : State) : Prop where
  operands  : t.operands = s.operands
  status    : t.status = s.status.succeeded
  irqEn     : t.irqEn = s.irqEn
  cmd       : t.cmd = s.cmd
  bmemBytes : t.bmemBytes = s.bmemBytes
  draws     : t.draws = s.draws
  inbox     : t.inbox = s.inbox
  schedule  : t.schedule = s.schedule
  responses : t.responses = s.responses

/-- What a success completion of command i from s to t writes, of which form its operands were. -/
structure Committed (i : Instr) (s t : State) : Prop where
  untouched : Untouched s t
  source    : readsSource i = true → SrcOk s
  buffer    : producesBuffer i = true → DestinationOk i s ∧
    (1 ≤ (outDims i s).1 ∧ (outDims i s).1 ≤ 65535) ∧ (1 ≤ (outDims i s).2.1 ∧ (outDims i s).2.1 ≤ 65535) ∧
    ∃ f, t.bmem = Memory.store s.bmem s.operands.dstAddr.toNat
        (raster (outDims i s).1 (outDims i s).2.1 (outDims i s).2.2 f) ∧
      t.out = ⟨BitVec.ofNat 32 (outDims i s).1, BitVec.ofNat 32 (outDims i s).2.1,
        BitVec.ofNat 32 (outDims i s).2.2, BitVec.ofNat 32 (outLen i s)⟩
  noBuffer  : producesBuffer i = false → t.bmem = s.bmem ∧ t.out = s.out
  lut       : writesLut i = true → ∃ vals : List Byte, vals.length = 256 ∧ t.lut = Memory.store s.lut 0 vals
  noLut     : writesLut i = false → t.lut = s.lut
  kmem      : writesKmem i = true → KsizeOk s ∧ ∃ vals : List Word,
    vals.length = s.operands.ksize.toNat * s.operands.ksize.toNat ∧ t.kmem = Memory.store s.kmem 0 vals
  noKmem    : writesKmem i = false → t.kmem = s.kmem
  hmem      : i = .hist → ∃ vals : List Word, vals.length = 256 ∧ t.hmem = Memory.store s.hmem 0 vals
  noHmem    : i ≠ .hist → t.hmem = s.hmem
  noOtsu    : i ≠ .otsu → t.otsuT = s.otsuT

theorem settle_cases {α : Type} (c : Except ErrorKind α) (f : α → State → State) (s : State) :
    (∃ e, settle c f s = s.takeError e) ∨ ∃ a, c = .ok a ∧ settle c f s = (f a s).succeed := by
  cases c with
  | error e => exact .inl ⟨e, rfl⟩
  | ok a => exact .inr ⟨a, rfl, rfl⟩

/-! The commit of each command. -/

theorem neg_committed {s : State} {a : _} (h : checksPoint s = .ok a) : Committed .neg s (commitPoint negTable a s).succeed := by
  simp only [checksPoint, bind_eq_ok, pure, Except.pure, Except.ok.injEq] at h
  obtain ⟨b, hb, u, hu, rfl⟩ := h
  obtain ⟨hs, rfl⟩ := checkSrc_inv hb
  have hd := checkDst_inv hu
  exact ⟨⟨rfl, rfl, rfl, rfl, rfl, rfl, rfl, rfl, rfl⟩, fun _ => hs, fun _ => ⟨hd, hs.2.1, hs.2.2.1, _, rfl, rfl⟩,
    nofun, fun _ => ⟨_, by simp, rfl⟩, nofun, nofun, fun _ => rfl, nofun, fun _ => rfl, fun _ => rfl⟩

theorem log_committed {s : State} {a : _} (h : checksPoint s = .ok a) : Committed .log s (commitPoint logTable a s).succeed := by
  simp only [checksPoint, bind_eq_ok, pure, Except.pure, Except.ok.injEq] at h
  obtain ⟨b, hb, u, hu, rfl⟩ := h
  obtain ⟨hs, rfl⟩ := checkSrc_inv hb
  have hd := checkDst_inv hu
  exact ⟨⟨rfl, rfl, rfl, rfl, rfl, rfl, rfl, rfl, rfl⟩, fun _ => hs, fun _ => ⟨hd, hs.2.1, hs.2.2.1, _, rfl, rfl⟩,
    nofun, fun _ => ⟨_, by simp, rfl⟩, nofun, nofun, fun _ => rfl, nofun, fun _ => rfl, fun _ => rfl⟩

theorem gamma_committed {s : State} {a : _} (h : checksGamma s = .ok a) : Committed .gamma s (commitPoint (gammaTable a.2) a.1 s).succeed := by
  simp only [checksGamma, bind_eq_ok, pure, Except.pure, Except.ok.injEq] at h
  obtain ⟨b, hb, g, -, u, hu, rfl⟩ := h
  obtain ⟨hs, rfl⟩ := checkSrc_inv hb
  have hd := checkDst_inv hu
  exact ⟨⟨rfl, rfl, rfl, rfl, rfl, rfl, rfl, rfl, rfl⟩, fun _ => hs, fun _ => ⟨hd, hs.2.1, hs.2.2.1, _, rfl, rfl⟩,
    nofun, fun _ => ⟨_, by simp, rfl⟩, nofun, nofun, fun _ => rfl, nofun, fun _ => rfl, fun _ => rfl⟩

theorem thresh_committed {s : State} {a : _} (h : checksThresh s = .ok a) : Committed .thresh s (commitGrayPoint (threshTable a.2) a.1 s).succeed := by
  simp only [checksThresh, bind_eq_ok, pure, Except.pure, Except.ok.injEq] at h
  obtain ⟨b, hb, g, -, u, hu, rfl⟩ := h
  obtain ⟨hs, rfl⟩ := checkSrc_inv hb
  have hd := checkDst_inv hu
  exact ⟨⟨rfl, rfl, rfl, rfl, rfl, rfl, rfl, rfl, rfl⟩, fun _ => hs, fun _ => ⟨hd, hs.2.1, hs.2.2.1, _, rfl, rfl⟩,
    nofun, fun _ => ⟨_, by simp, rfl⟩, nofun, nofun, fun _ => rfl, nofun, fun _ => rfl, fun _ => rfl⟩

theorem conv_committed {s : State} {a : _} (h : checksConv s = .ok a) : Committed .conv s (commitConv a s).succeed := by
  simp only [checksConv, bind_eq_ok, pure, Except.pure, Except.ok.injEq] at h
  obtain ⟨b, hb, m, -, k, -, u, hu, rfl⟩ := h
  obtain ⟨hs, rfl⟩ := checkSrc_inv hb
  have hd := checkDst_inv hu
  exact ⟨⟨rfl, rfl, rfl, rfl, rfl, rfl, rfl, rfl, rfl⟩, fun _ => hs, fun _ => ⟨hd, hs.2.1, hs.2.2.1, _, rfl, rfl⟩,
    nofun, nofun, fun _ => rfl, nofun, fun _ => rfl, nofun, fun _ => rfl, fun _ => rfl⟩

theorem box_committed {s : State} {a : _} (h : checksConv s = .ok a) : Committed .box s (commitBox a s).succeed := by
  simp only [checksConv, bind_eq_ok, pure, Except.pure, Except.ok.injEq] at h
  obtain ⟨b, hb, m, -, k, -, u, hu, rfl⟩ := h
  obtain ⟨hs, rfl⟩ := checkSrc_inv hb
  have hd := checkDst_inv hu
  exact ⟨⟨rfl, rfl, rfl, rfl, rfl, rfl, rfl, rfl, rfl⟩, fun _ => hs, fun _ => ⟨hd, hs.2.1, hs.2.2.1, _, rfl, rfl⟩,
    nofun, nofun, fun _ => rfl, nofun, fun _ => rfl, nofun, fun _ => rfl, fun _ => rfl⟩

theorem gauss_committed {s : State} {a : _} (h : checksGauss s = .ok a) : Committed .gauss s (commitGauss a.1 (gcoef a.1.k a.2) s).succeed := by
  simp only [checksGauss, bind_eq_ok, pure, Except.pure, Except.ok.injEq] at h
  obtain ⟨b, hb, m, -, k, hk, sc, -, u, hu, rfl⟩ := h
  obtain ⟨hs, rfl⟩ := checkSrc_inv hb
  obtain ⟨hk2, rfl⟩ := checkKsize_inv hk
  have hd := checkDst_inv hu
  exact ⟨⟨rfl, rfl, rfl, rfl, rfl, rfl, rfl, rfl, rfl⟩, fun _ => hs, fun _ => ⟨hd, hs.2.1, hs.2.2.1, _, rfl, rfl⟩,
    nofun, nofun, fun _ => rfl, fun _ => ⟨hk2, _, by simp, rfl⟩, nofun, nofun, fun _ => rfl, fun _ => rfl⟩

theorem unsharp_committed {s : State} {a : _} (h : checksUnsharp s = .ok a) : Committed .unsharp s (commitUnsharp a.1 (gcoef a.1.k a.2.1) a.2.2 s).succeed := by
  simp only [checksUnsharp, bind_eq_ok, pure, Except.pure, Except.ok.injEq] at h
  obtain ⟨b, hb, m, -, k, hk, sc, -, ac, -, u, hu, rfl⟩ := h
  obtain ⟨hs, rfl⟩ := checkSrc_inv hb
  obtain ⟨hk2, rfl⟩ := checkKsize_inv hk
  have hd := checkDst_inv hu
  exact ⟨⟨rfl, rfl, rfl, rfl, rfl, rfl, rfl, rfl, rfl⟩, fun _ => hs, fun _ => ⟨hd, hs.2.1, hs.2.2.1, _, rfl, rfl⟩,
    nofun, nofun, fun _ => rfl, fun _ => ⟨hk2, _, by simp, rfl⟩, nofun, nofun, fun _ => rfl, fun _ => rfl⟩

theorem sobel_committed {s : State} {a : _} (h : checksSobel s = .ok a) : Committed .sobel s (commitSobel a.1 a.2 s).succeed := by
  simp only [checksSobel, bind_eq_ok, pure, Except.pure, Except.ok.injEq] at h
  obtain ⟨b, hb, m, -, u, hu, rfl⟩ := h
  obtain ⟨hs, rfl⟩ := checkSrc_inv hb
  have hd := checkDst_inv hu
  exact ⟨⟨rfl, rfl, rfl, rfl, rfl, rfl, rfl, rfl, rfl⟩, fun _ => hs, fun _ => ⟨hd, hs.2.1, hs.2.2.1, _, rfl, rfl⟩,
    nofun, nofun, fun _ => rfl, nofun, fun _ => rfl, nofun, fun _ => rfl, fun _ => rfl⟩

theorem resizeNn_committed {s : State} {a : _} (h : checksResize s = .ok a) : Committed .resizeNn s (commitResizeNn a.1 a.2.1 a.2.2 s).succeed := by
  simp only [checksResize, bind_eq_ok, pure, Except.pure, Except.ok.injEq] at h
  obtain ⟨b, hb, nw, hw, nh, hh, u, hu, rfl⟩ := h
  obtain ⟨hs, rfl⟩ := checkSrc_inv hb
  obtain ⟨hw2, rfl⟩ := checkNewDim_inv hw
  obtain ⟨hh2, rfl⟩ := checkNewDim_inv hh
  have hd := checkDst_inv hu
  exact ⟨⟨rfl, rfl, rfl, rfl, rfl, rfl, rfl, rfl, rfl⟩, fun _ => hs, fun _ => ⟨hd, hw2, hh2, _, rfl, rfl⟩, nofun,
    nofun, fun _ => rfl, nofun, fun _ => rfl, nofun, fun _ => rfl, fun _ => rfl⟩

theorem resizeBl_committed {s : State} {a : _} (h : checksResize s = .ok a) : Committed .resizeBl s (commitResizeBl a.1 a.2.1 a.2.2 s).succeed := by
  simp only [checksResize, bind_eq_ok, pure, Except.pure, Except.ok.injEq] at h
  obtain ⟨b, hb, nw, hw, nh, hh, u, hu, rfl⟩ := h
  obtain ⟨hs, rfl⟩ := checkSrc_inv hb
  obtain ⟨hw2, rfl⟩ := checkNewDim_inv hw
  obtain ⟨hh2, rfl⟩ := checkNewDim_inv hh
  have hd := checkDst_inv hu
  exact ⟨⟨rfl, rfl, rfl, rfl, rfl, rfl, rfl, rfl, rfl⟩, fun _ => hs, fun _ => ⟨hd, hw2, hh2, _, rfl, rfl⟩, nofun,
    nofun, fun _ => rfl, nofun, fun _ => rfl, nofun, fun _ => rfl, fun _ => rfl⟩

theorem hist_committed {s : State} {b : Buf} (h : checkSrc s = .ok b) :
    Committed .hist s (s.writeHmem fun i => (s.grayList b).count i).succeed := by
  obtain ⟨hs, rfl⟩ := checkSrc_inv h
  exact ⟨⟨rfl, rfl, rfl, rfl, rfl, rfl, rfl, rfl, rfl⟩, fun _ => hs, nofun, fun _ => ⟨rfl, rfl⟩, nofun, fun _ => rfl, nofun,
    fun _ => rfl, fun _ => ⟨_, by simp, rfl⟩, fun h => absurd rfl h, fun _ => rfl⟩

theorem otsu_committed (s : State) (n : Nat) : Committed .otsu s (s.writeOtsu n).succeed :=
  ⟨⟨rfl, rfl, rfl, rfl, rfl, rfl, rfl, rfl, rfl⟩, nofun, nofun, fun _ => ⟨rfl, rfl⟩, nofun, fun _ => rfl, nofun,
    fun _ => rfl, nofun, fun _ => rfl, fun h => absurd rfl h⟩

/-- Everything a command can do: it takes an error, or it commits (R121, R128). -/
theorem exec_cases (i : Instr) (s : State) :
    (∃ e, exec i s = .next (s.takeError e)) ∨ ∃ t, exec i s = .next t ∧ Committed i s t := by
  cases i <;> simp only [exec, execNeg, execLog, execGamma, execThresh, execHist, execOtsu, execConv, execBox,
    execGauss, execUnsharp, execSobel, execResizeNn, execResizeBl, Host.Outcome.next.injEq] <;>
    refine (settle_cases _ _ s).imp id ?_ <;> rintro ⟨a, ha, hs⟩ <;> refine ⟨_, hs, ?_⟩
  case neg => exact neg_committed ha
  case log => exact log_committed ha
  case gamma => exact gamma_committed ha
  case thresh => exact thresh_committed ha
  case hist => exact hist_committed ha
  case otsu => exact otsu_committed s _
  case conv => exact conv_committed ha
  case box => exact box_committed ha
  case gauss => exact gauss_committed ha
  case unsharp => exact unsharp_committed ha
  case sobel => exact sobel_committed ha
  case resizeNn => exact resizeNn_committed ha
  case resizeBl => exact resizeBl_committed ha

/-- Every command answers a next state (R128). -/
theorem exec_next (i : Instr) (s : State) : ∃ t, exec i s = .next t := by
  rcases exec_cases i s with ⟨e, h⟩ | ⟨t, h, -⟩
  · exact ⟨_, h⟩
  · exact ⟨t, h⟩

end Sys2Proof.Machine
end

