-- ==== Sys2Proof/Laws/Formulas.lean ====
section
/-! SUPPORT. The model's integer procedures against the formulas of the spec: floor division and rounding, clamping, the
neighbourhood sum, minimum and maximum of a list, counting. -/

namespace Sys2Proof.Machine

/-- `fdiv(a, b)` is the floor of the quotient (R9). -/
theorem fdiv_eq_floor (a : Int) {b : Int} (hb : 0 < b) : fdiv a b = ⌊(a : ℚ) / (b : ℚ)⌋ := by
  have hb' : (0 : ℚ) < b := by exact_mod_cast hb
  rw [fdiv, eq_comm, Int.floor_eq_iff]
  constructor
  · rw [le_div_iff₀ hb']; exact_mod_cast Int.ediv_mul_le a hb.ne'
  · rw [div_lt_iff₀ hb']; exact_mod_cast Int.lt_ediv_add_one_mul_self a hb

/-- `fdiv(2*a + b, 2*b)` is `rnd(a / b)` (R10). -/
theorem fdiv_eq_round (a : Int) {b : Int} (hb : 0 < b) :
    fdiv (2 * a + b) (2 * b) = ⌊(a : ℚ) / (b : ℚ) + 1 / 2⌋ := by
  have hb' : (b : ℚ) ≠ 0 := by exact_mod_cast hb.ne'
  rw [fdiv_eq_floor _ (by omega)]
  congr 1
  push_cast
  field_simp

/-- `clamp` (R9) as a maximum of a minimum. -/
theorem clamp_eq_max_min (x : Int) {lo hi : Int} (h : lo ≤ hi) : clamp x lo hi = max lo (min hi x) := by
  unfold clamp; split <;> (try split) <;> omega

/-- A clamped integer stored as a sample. -/
theorem sampleByte_clamp (x : Int) : sampleByte (clamp x 0 255) = toSample x := by
  rw [sampleByte, toSample, clamp_eq_max_min x (by omega)]

/-- An integer in 0..255 stored as a sample needs no clamp. -/
theorem sampleByte_eq_toSample {x : Int} (h0 : 0 ≤ x) (h1 : x ≤ 255) : sampleByte x = toSample x := by
  rw [sampleByte, toSample]; congr 1; omega

theorem ofNat_eq_toSample {n : Nat} (h : n ≤ 255) : (BitVec.ofNat 8 n : Byte) = toSample n := by
  rw [toSample, show max 0 (min 255 (n : Int)) = n by omega, BitVec.ofInt_natCast]

/-- A sum over m * k consecutive indices, row by row. -/
theorem sum_range_mul (m k : Nat) (f : Nat → Int) :
    ∑ n ∈ Finset.range (m * k), f n = ∑ j ∈ Finset.range m, ∑ i ∈ Finset.range k, f (j * k + i) := by
  induction m with
  | zero => simp
  | succ m ih => rw [Nat.succ_mul, Finset.sum_range_add, ih, Finset.sum_range_succ]

theorem sum_map_range (n : Nat) (f : Nat → Int) : ((List.range n).map f).sum = ∑ i ∈ Finset.range n, f i := by
  induction n with
  | zero => simp
  | succ n ih => rw [List.range_succ, List.map_append, List.sum_append, ih, Finset.sum_range_succ]; simp

/-- The sum over the taps of a kernel is the double sum of R194. -/
theorem neighbourSum_eq (k : Nat) (wt : Nat → Int) (plane : Nat → Int → Int → Nat) (x y : Nat) :
    neighbourSum k wt plane x y = correlationSum k wt plane x y := by
  rw [neighbourSum, sum_map_range, sum_range_mul, correlationSum]
  refine Finset.sum_congr rfl fun j hj => Finset.sum_congr rfl fun i hi => ?_
  have hi' := Finset.mem_range.mp hi
  have h1 : (j * k + i) % k = i := by
    rw [Nat.add_comm, Nat.add_mul_mod_self_right, Nat.mod_eq_of_lt hi']
  have h2 : (j * k + i) / k = j := by
    rw [Nat.add_comm, Nat.add_mul_div_right _ _ (by omega), Nat.div_eq_of_lt hi', Nat.zero_add]
  rw [h1, h2]

/-- The correlation (R194) with coefficients listed tap by tap. -/
theorem State.correlate_map_range (s : State) (b : Buf) (m : Border) (k : Nat) (f : Nat → Int) (x y c : Nat) :
    s.correlate b m k ((List.range (k * k)).map f) x y c =
      correlationSum k f (fun n => s.paddedSample b m [x, y, c, n] c) x y := by
  rw [State.correlate, neighbourSum_eq]
  refine Finset.sum_congr rfl fun j hj => Finset.sum_congr rfl fun i hi => ?_
  have hlt : j * k + i < k * k := by
    have := Nat.mul_le_mul_right k (Finset.mem_range.mp hj)
    have := Finset.mem_range.mp hi
    rw [Nat.succ_mul] at *; omega
  beta_reduce
  rw [List.getD_eq_getElem?_getD, List.getElem?_map, List.getElem?_range hlt, Option.map_some, Option.getD_some]

/-- A sample of CONV depends on no unwritten coefficient exactly where each of them meets a padded sample 0 (93 U4). -/
theorem State.correlate_kernelUnwritten_eq_zero (s : State) (b : Buf) (m : Border) (k x y c : Nat) :
    s.correlate b m k (s.kernelUnwritten k) x y c = 0 ↔
      ∀ j < k, ∀ i < k, Memory.get? s.kmem (j * k + i) = none →
        s.paddedSample b m [x, y, c, j * k + i] c ((x : Int) + i - (k - 1) / 2) ((y : Int) + j - (k - 1) / 2) = 0 := by
  have h0 : ∀ (n : Nat) (p : Nat), (0 : Int) ≤ (if Memory.get? s.kmem n = none then 1 else 0) * (p : Int) := by
    intro n p; split <;> omega
  rw [State.kernelUnwritten, State.correlate_map_range, correlationSum,
    Finset.sum_eq_zero_iff_of_nonneg fun j _ => Finset.sum_nonneg fun i _ => h0 _ _]
  simp only [Finset.mem_range]
  refine forall₂_congr fun j _ => ?_
  rw [Finset.sum_eq_zero_iff_of_nonneg fun i _ => h0 _ _]
  simp only [Finset.mem_range]
  refine forall₂_congr fun i _ => ?_
  split <;> simp [*]

/-- Where the kernel is written, every sample of CONV is the quantised correlation (R197). -/
theorem State.convSample_written {s : State} {o : ConvOperands} (kq : List Int)
    (h : ∀ n < o.k * o.k, Memory.get? s.kmem n ≠ none) (x y c : Nat) :
    s.convSample o kq (s.kernelUnwritten o.k) x y c = sampleByte (quantise (s.correlate o.src o.mode o.k kq x y c)) := by
  refine if_pos ((s.correlate_kernelUnwritten_eq_zero ..).2 fun j hj i hi hn => absurd hn (h _ ?_))
  have := Nat.mul_le_mul_right o.k hj
  rw [Nat.succ_mul] at this; omega

/-- Tstar where HMEM is written (R172). -/
theorem State.otsuResult_written {s : State} (h : s.HistogramWritten) (l : List Nat) : s.otsuResult l = otsuThreshold l :=
  if_pos h

theorem foldl_min_isLeast (l : List Nat) (a : Nat) : IsLeast {n | n = a ∨ n ∈ l} (l.foldl min a) := by
  induction l generalizing a with
  | nil => simp
  | cons b l ih =>
    obtain ⟨h1, h2⟩ := ih (min a b)
    refine ⟨?_, fun n hn => ?_⟩
    · rcases h1 with h | h
      · rcases min_choice a b with h3 | h3 <;> rw [List.foldl_cons, h, h3] <;> simp
      · exact .inr (List.mem_cons_of_mem _ h)
    · rw [List.foldl_cons]
      rcases hn with rfl | hn
      · exact (h2 (.inl rfl)).trans (min_le_left _ _)
      · rcases List.mem_cons.mp hn with rfl | hn
        · exact (h2 (.inl rfl)).trans (min_le_right _ _)
        · exact h2 (.inr hn)

theorem foldl_max_isGreatest (l : List Nat) (a : Nat) : IsGreatest {n | n = a ∨ n ∈ l} (l.foldl max a) := by
  induction l generalizing a with
  | nil => simp
  | cons b l ih =>
    obtain ⟨h1, h2⟩ := ih (max a b)
    refine ⟨?_, fun n hn => ?_⟩
    · rcases h1 with h | h
      · rcases max_choice a b with h3 | h3 <;> rw [List.foldl_cons, h, h3] <;> simp
      · exact .inr (List.mem_cons_of_mem _ h)
    · rw [List.foldl_cons]
      rcases hn with rfl | hn
      · exact (le_max_left _ _).trans (h2 (.inl rfl))
      · rcases List.mem_cons.mp hn with rfl | hn
        · exact (le_max_right _ _).trans (h2 (.inl rfl))
        · exact h2 (.inr hn)

/-- The minimum of a list that is not empty. -/
theorem listMin_isLeast {l : List Nat} (h : l ≠ []) : IsLeast {n | n ∈ l} (listMin l) := by
  have := foldl_min_isLeast l (l.headD 0)
  have he : {n | n = l.headD 0 ∨ n ∈ l} = {n | n ∈ l} := by
    cases l with
    | nil => exact absurd rfl h
    | cons a l => ext n; simp
  rwa [he] at this

/-- The maximum of a list that is not empty. -/
theorem listMax_isGreatest {l : List Nat} (h : l ≠ []) : IsGreatest {n | n ∈ l} (listMax l) := by
  have := foldl_max_isGreatest l (l.headD 0)
  have he : {n | n = l.headD 0 ∨ n ∈ l} = {n | n ∈ l} := by
    cases l with
    | nil => exact absurd rfl h
    | cons a l => ext n; simp
  rwa [he] at this

/-- `#S` (R9) as the cardinality of a finite set. -/
theorem count255_eq_card (p : Nat → Bool) : count255 p = ((Finset.Icc 1 255).filter fun j => p j = true).card := by
  rw [count255, List.countP_eq_length_filter]
  have : (Finset.Icc 1 255) = (List.range' 1 255).toFinset := by
    ext n; simp [List.mem_range'_1]; omega
  rw [this, ← List.toFinset_filter, List.toFinset_card_of_nodup]
  exact (List.nodup_range').filter _

theorem count255_le (p : Nat → Bool) : count255 p ≤ 255 := by
  rw [count255]; exact (List.countP_le_length).trans (by simp)

/-- Where the numbers of 1..255 that meet p are those up to m, their count is m. -/
theorem count255_eq {p : Nat → Bool} {m : Nat} (hm : m ≤ 255) (h : ∀ n, 1 ≤ n → n ≤ 255 → (p n = true ↔ n ≤ m)) :
    count255 p = m := by
  rw [count255_eq_card]
  have : ((Finset.Icc 1 255).filter fun j => p j = true) = Finset.Icc 1 m := by
    ext n
    simp only [Finset.mem_filter, Finset.mem_Icc]
    constructor
    · rintro ⟨⟨h1, h2⟩, h3⟩; exact ⟨h1, (h n h1 h2).mp h3⟩
    · rintro ⟨h1, h2⟩; exact ⟨⟨h1, by omega⟩, (h n h1 (by omega)).mpr h2⟩
  rw [this]; simp

end Sys2Proof.Machine
end

