-- ==== Sys2Proof/Laws/PerInstr.lean ====
section
/-! SUPPORT. Statements about every command, one lemma per constructor. -/

namespace Sys2Proof.Laws

/-- The word of a command is legal (R100, R103, R104): bits [31:8] are 0, the opcode is assigned, and it is not the
all-zero word. -/
def EncodeWellFormed.Statement (i : Instr) : Prop :=
  upperBitsZero (encode i) = true ∧ opcodeAssigned (encode i) = true ∧ encode i ≠ 0

theorem EncodeWellFormed.neg : EncodeWellFormed.Statement .neg := by unfold EncodeWellFormed.Statement; decide
theorem EncodeWellFormed.log : EncodeWellFormed.Statement .log := by unfold EncodeWellFormed.Statement; decide
theorem EncodeWellFormed.gamma : EncodeWellFormed.Statement .gamma := by unfold EncodeWellFormed.Statement; decide
theorem EncodeWellFormed.thresh : EncodeWellFormed.Statement .thresh := by unfold EncodeWellFormed.Statement; decide
theorem EncodeWellFormed.hist : EncodeWellFormed.Statement .hist := by unfold EncodeWellFormed.Statement; decide
theorem EncodeWellFormed.otsu : EncodeWellFormed.Statement .otsu := by unfold EncodeWellFormed.Statement; decide
theorem EncodeWellFormed.conv : EncodeWellFormed.Statement .conv := by unfold EncodeWellFormed.Statement; decide
theorem EncodeWellFormed.box : EncodeWellFormed.Statement .box := by unfold EncodeWellFormed.Statement; decide
theorem EncodeWellFormed.gauss : EncodeWellFormed.Statement .gauss := by unfold EncodeWellFormed.Statement; decide
theorem EncodeWellFormed.unsharp : EncodeWellFormed.Statement .unsharp := by unfold EncodeWellFormed.Statement; decide
theorem EncodeWellFormed.sobel : EncodeWellFormed.Statement .sobel := by unfold EncodeWellFormed.Statement; decide
theorem EncodeWellFormed.resizeNn : EncodeWellFormed.Statement .resizeNn := by unfold EncodeWellFormed.Statement; decide
theorem EncodeWellFormed.resizeBl : EncodeWellFormed.Statement .resizeBl := by unfold EncodeWellFormed.Statement; decide

end Sys2Proof.Laws
end

