-- ==== Sys2Proof/Laws/Results.lean ====
section
/-! SUPPORT. What the commit of a command leaves in the destination range, the result registers and the tables. -/

namespace Sys2Proof.Machine

/-- A legal source has at least one byte (R124). -/
theorem srcLen_pos {s : State} (h : SrcOk s) : 1 ≤ s.operands.srcLen.toNat := by
  rw [h.2.2.2.1]
  have hc : 1 ≤ s.src.c := by rcases h.1 with h1 | h1 <;> omega
  exact Nat.mul_pos (Nat.mul_pos h.2.1.1 h.2.2.1.1) hc

/-- A legal destination beside a legal source is shorter than 2^32 bytes, so that OUT_LEN holds its length (R43). -/
theorem outLen_lt {s : State} {ow oh oc : Nat} (h : SrcOk s) (hd : DstOk s ow oh oc) (hs : s.bmemBytes ≤ 2 ^ 32) :
    ow * oh * oc < 2 ^ 32 := by
  have := srcLen_pos h; obtain ⟨h1, h2⟩ := hd; omega

/-- The destination range and the result registers after `produce` (R79, R129). -/
theorem produce_holds {s t : State} {ow oh oc : Nat} {f g : Nat → Nat → Nat → Byte} (h : SrcOk s)
    (hd : DstOk s ow oh oc) (hw : ow ≤ 65535) (hh : oh ≤ 65535) (hc : oc = 1 ∨ oc = 3)
    (hb : t.bmem = (s.produce ow oh oc f).bmem) (ho : t.out = (s.produce ow oh oc f).out)
    (hfg : ∀ x < ow, ∀ y < oh, ∀ c < oc, f x y c = g x y c) : HoldsBuffer s t ow oh oc g := by
  have h3 : oc ≤ 65535 := by omega
  refine ⟨fun x hx y hy c hc => ?_, ?_, ?_, ?_, fun hs => ?_⟩
  · have hlt := raster_index_lt hx hy hc
    rw [hb, Nat.add_assoc]
    show Memory.get? (Memory.store _ _ _) _ = _
    rw [Memory.get?_store, if_pos ⟨by omega, by rw [raster_length]; omega⟩, Nat.add_sub_cancel_left,
      raster_getElem? f hx hy hc, hfg x hx y hy c hc]
  · rw [ho]; simp [State.produce]; omega
  · rw [ho]; simp [State.produce]; omega
  · rw [ho]; simp [State.produce]; omega
  · rw [ho]; simp only [State.produce, BitVec.toNat_ofNat]; exact Nat.mod_eq_of_lt (outLen_lt h hd hs)

/-- An entry of a table stored from index 0 on. -/
theorem get?_table {α : Type} (m : Memory α) (n : Nat) (f : Nat → α) {v : Nat} (h : v < n) :
    Memory.get? (Memory.store m 0 ((List.range n).map f)) v = some (f v) := by
  rw [Memory.get?_store, if_pos ⟨by omega, by simpa using h⟩, Nat.sub_zero, List.getElem?_map,
    List.getElem?_range h]
  rfl

/-- A sample is at most 255 (R77). -/
theorem sample_le (s : State) (b : Buf) (site : List Nat) (x y c : Nat) : s.sample b site x y c ≤ 255 := by
  have := (s.byteAt s.bmem site (b.sampleAddr x y c)).isLt
  rw [State.sample]; omega

/-- Luma is at most 255 (R140). -/
theorem gray_le {r g b : Nat} (hr : r ≤ 255) (hg : g ≤ 255) (hb : b ≤ 255) : gray r g b ≤ 255 := by
  rw [gray]; omega

/-- The grayscale view is at most 255 (R141). -/
theorem grayAt_le (s : State) (b : Buf) (site : List Nat) (x y : Nat) : s.grayAt b site x y ≤ 255 := by
  rw [State.grayAt]; split
  · exact sample_le ..
  · exact gray_le (sample_le ..) (sample_le ..) (sample_le ..)

/-- A padded sample is at most 255 (R193). -/
theorem padded_le {w h : Nat} {mode : Border} {f : Nat → Nat → Nat} (hf : ∀ x y, f x y ≤ 255) (x y : Int) :
    padded w h mode f x y ≤ 255 := by
  unfold padded; split
  · exact hf _ _
  · omega

end Sys2Proof.Machine
end

