-- ==== Sys2Proof/Laws/Step.lean ====
section
/-! SUPPORT. The register map, what a host transaction keeps, and what a step can do. -/

namespace Sys2Proof.Machine

/-- Every register is reached at its own offset. -/
theorem place_offset (r : Reg) : place r.offset = some (.reg r) := by cases r <;> rfl

/-- The offsets that reach an entry of HMEM name one of its 256 entries. -/
theorem place_hmem_lt {off i : Nat} (h : place off = some (.hmem i)) : i < 256 := by
  unfold place at h
  split at h
  · cases h
  split at h
  · simp at h
  split at h
  · cases h; omega
  split at h
  · cases h
  split at h <;> cases h

/-- The offsets that reach an entry of KMEM name one of its 121 entries. -/
theorem place_kmem_lt {off n : Nat} (h : place off = some (.kmem n)) : n < 121 := by
  unfold place at h
  split at h
  · cases h
  split at h
  · simp at h
  split at h
  · cases h
  split at h
  · cases h; omega
  split at h <;> cases h

/-- What a write of a place does: it acknowledges, sets the enables, is dropped, or takes effect while idle (R304). -/
theorem writePlace_cases (s : State) (v : Word) (p : Place) :
    (p = .reg .status ∧ s.writePlace v p = s.acknowledge v) ∨
    (p = .reg .irqEn ∧ s.writePlace v p = { s with irqEn := IrqEn.ofWord v }) ∨
    (p ≠ .reg .status ∧ p ≠ .reg .irqEn ∧ s.status.busy = true ∧ s.writePlace v p = s.drop) ∨
    (p ≠ .reg .status ∧ p ≠ .reg .irqEn ∧ s.status.busy = false ∧ s.writePlace v p = s.writeIdle v p) := by
  by_cases h1 : p = .reg .status
  · subst h1; exact .inl ⟨rfl, rfl⟩
  by_cases h2 : p = .reg .irqEn
  · subst h2; exact .inr (.inl ⟨rfl, rfl⟩)
  have hw : s.writePlace v p = if s.status.busy then s.drop else s.writeIdle v p := by
    cases p with
    | reg r => cases r <;> first | rfl | exact absurd rfl h1 | exact absurd rfl h2
    | hmem i => rfl
    | kmem n => rfl
    | lut w => rfl
  cases hb : s.status.busy
  · exact .inr (.inr (.inr ⟨h1, h2, rfl, by rw [hw, hb]; rfl⟩))
  · exact .inr (.inr (.inl ⟨h1, h2, rfl, by rw [hw, hb]; rfl⟩))

/-- A write while idle keeps the environment (R310). -/
theorem writeIdle_environment (s : State) (v : Word) (p : Place) :
    (s.writeIdle v p).schedule = s.schedule ∧ (s.writeIdle v p).draws = s.draws ∧
    (s.writeIdle v p).inbox = s.inbox ∧ (s.writeIdle v p).bmemBytes = s.bmemBytes := by
  cases p with
  | reg r => cases r <;> exact ⟨rfl, rfl, rfl, rfl⟩
  | hmem i => exact ⟨rfl, rfl, rfl, rfl⟩
  | kmem n => exact ⟨rfl, rfl, rfl, rfl⟩
  | lut w => exact ⟨rfl, rfl, rfl, rfl⟩

/-- No host transaction changes the schedule, the draw counter or BMEM_BYTES. -/
theorem serve_environment (tx : HostTx) (s : State) :
    (serve tx s).schedule = s.schedule ∧ (serve tx s).draws = s.draws ∧ (serve tx s).bmemBytes = s.bmemBytes := by
  cases tx with
  | regRead bytes off => simp only [serve]; split <;> exact ⟨rfl, rfl, rfl⟩
  | regWrite bytes off v =>
    simp only [serve]
    split
    · rename_i p _
      rcases writePlace_cases s v p with ⟨-, h⟩ | ⟨-, h⟩ | ⟨-, -, -, h⟩ | ⟨-, -, -, h⟩ <;> rw [h]
      · exact ⟨rfl, rfl, rfl⟩
      · exact ⟨rfl, rfl, rfl⟩
      · exact ⟨rfl, rfl, rfl⟩
      · obtain ⟨h1, h2, -, h4⟩ := writeIdle_environment s v p
        exact ⟨h1, h2, h4⟩
    · exact ⟨rfl, rfl, rfl⟩
  | bmemRead addr n => simp only [serve]; split <;> exact ⟨rfl, rfl, rfl⟩
  | bmemWrite addr n v =>
    simp only [serve]
    split
    · split <;> exact ⟨rfl, rfl, rfl⟩
    · exact ⟨rfl, rfl, rfl⟩
  | wait => simp only [serve]; split <;> exact ⟨rfl, rfl, rfl⟩
  | rst => exact ⟨rfl, rfl, rfl⟩

/-- Everything a step can do: the engine executes the command in flight or finds its word illegal, the host's next
transaction is served, or nothing is left to do. -/
theorem step_cases (s : State) :
    (s.engineMoves = true ∧ ∃ i, decode s.cmd = .ok i ∧ step s = exec i s.turn) ∨
    (s.engineMoves = true ∧ (∃ e, decode s.cmd = .error e) ∧ step s = .next (s.turn.takeError .invalidCommand)) ∨
    (s.engineMoves = false ∧ ∃ tx rest, s.inbox = tx :: rest ∧
      step s = .next (serve tx { s.turn with inbox := rest })) ∨
    (s.engineMoves = false ∧ s.inbox = [] ∧ step s = .next s) := by
  unfold step
  cases hm : s.engineMoves
  · refine .inr (.inr ?_)
    rw [if_neg (by simp), runHost]
    cases hi : s.inbox with
    | nil => exact .inr ⟨rfl, rfl, rfl⟩
    | cons tx rest => exact .inl ⟨rfl, tx, rest, rfl, rfl⟩
  · rw [if_pos rfl, runEngine]
    show _ ∨ _
    have hc : s.turn.cmd = s.cmd := rfl
    rw [hc]
    cases hd : decode s.cmd with
    | ok i => exact .inl ⟨rfl, i, rfl, rfl⟩
    | error e => exact .inr (.inl ⟨rfl, ⟨e, rfl⟩, rfl⟩)

/-- A step always answers a next state: there is no stuck state (R281). -/
theorem step_next (s : State) : ∃ t, step s = .next t := by
  rcases step_cases s with ⟨-, i, -, h⟩ | ⟨-, -, h⟩ | ⟨-, tx, rest, -, h⟩ | ⟨-, -, h⟩
  · rw [h]; exact exec_next i _
  · exact ⟨_, h⟩
  · exact ⟨_, h⟩
  · exact ⟨_, h⟩

/-- The first step of a run. -/
theorem run_succ (n : Nat) {s t : State} (h : step s = .next t) :
    Sys2Proof.core.run (n + 1) s = Sys2Proof.core.run n t := by
  have h2 : Sys2Proof.core.step s = .next t := h
  have h3 := Host.Core.run.eq_2 Sys2Proof.core s n
  rw [h2] at h3
  exact h3

end Sys2Proof.Machine
end

