-- ==== Sys2Proof/Tests/Slice0.lean ====
section
/-! SUPPORT. The model's own tests. Expected values are the spec's: the examples of the command rules and the vectors of
95_test_vectors.md, named at each test. The second half gives a witness for the hypotheses of every obligation that has
any, at boundary values of its clauses. -/

namespace Sys2Proof.Tests

open Sys2Proof Sys2Proof.Machine

/-! The tests are elaborated one after another: each kernel evaluation would else hold a thread, and its stack, of its own. -/
set_option Elab.async false

/-! ## Well-formedness: an ill-formed word for each check (R100, R104). No command term can be ill formed. -/

theorem test_smoke_upper_bits : upperBitsZero 0x00000101 = false ∧ wordWellFormed 0x00000101 = false := by decide
theorem test_smoke_top_bit : upperBitsZero 0x80000001 = false ∧ wordWellFormed 0x80000001 = false := by decide
theorem test_smoke_opcode : opcodeAssigned 0x00000005 = false ∧ wordWellFormed 0x00000005 = false := by decide
theorem test_smoke_zero_word : opcodeAssigned 0 = false ∧ wordWellFormed 0 = false := by decide
theorem test_smoke_good_word : wordWellFormed 0x00000031 = true := by decide

/-! ## Decoding: every command's word written out from R100 and R103, and its neighbours refused. -/

theorem test_decode_neg : decode 0b000000000000000000000000_00000001 = .ok .neg := by decide
theorem test_decode_log : decode 0b000000000000000000000000_00000010 = .ok .log := by decide
theorem test_decode_gamma : decode 0b000000000000000000000000_00000011 = .ok .gamma := by decide
theorem test_decode_thresh : decode 0b000000000000000000000000_00000100 = .ok .thresh := by decide
theorem test_decode_hist : decode 0b000000000000000000000000_00010000 = .ok .hist := by decide
theorem test_decode_otsu : decode 0b000000000000000000000000_00010001 = .ok .otsu := by decide
theorem test_decode_conv : decode 0b000000000000000000000000_00100000 = .ok .conv := by decide
theorem test_decode_box : decode 0b000000000000000000000000_00100001 = .ok .box := by decide
theorem test_decode_gauss : decode 0b000000000000000000000000_00100010 = .ok .gauss := by decide
theorem test_decode_unsharp : decode 0b000000000000000000000000_00100011 = .ok .unsharp := by decide
theorem test_decode_sobel : decode 0b000000000000000000000000_00100100 = .ok .sobel := by decide
theorem test_decode_resizeNn : decode 0b000000000000000000000000_00110000 = .ok .resizeNn := by decide
theorem test_decode_resizeBl : decode 0b000000000000000000000000_00110001 = .ok .resizeBl := by decide
theorem test_decode_illegal : decode 0x05 = .error .opcodeUnassigned ∧ decode 0x12 = .error .opcodeUnassigned ∧
    decode 0x25 = .error .opcodeUnassigned ∧ decode 0x32 = .error .opcodeUnassigned ∧
    decode 0x124 = .error .upperBitsNonzero := by decide
theorem test_decode_table_word : decodeTableWord 32 0x24 = some .sobel ∧ decodeTableWord 32 0x25 = none := by decide
theorem test_print_illegal : printWord 0x124 = ".word 0x00000124" := by decide +kernel

/-! ## One command each, on a small state -/

/-- A state with a source buffer at address 0, DST_ADDR = 64, and every parameter legal: KSIZE 1, SIGMA and GAMMA 1.0,
AMOUNT 0, THRESH 128, the target dimensions those of the source. -/
def demo (w h c : Nat) (samples : List Nat) : State :=
  { State.reset with
    operands :=
      { OperandRegs.reset with
        srcW := BitVec.ofNat 32 w, srcH := BitVec.ofNat 32 h, srcC := BitVec.ofNat 32 c,
        srcLen := BitVec.ofNat 32 (w * h * c), dstAddr := 64, newW := BitVec.ofNat 32 w, newH := BitVec.ofNat 32 h,
        ksize := 1, sigma := 256, gamma := 256, thresh := 128 }
    bmem := Memory.cells 0 (samples.map (BitVec.ofNat 8)) }

/-- Another operand setting of a state. -/
def withOperands (s : State) (f : OperandRegs → OperandRegs) : State := { s with operands := f s.operands }

/-- The n bytes at address 64 after a command, `none` for one that nothing has written. -/
def outBytes (o : Host.Outcome State Fault Refusal) (n : Nat) : List (Option Nat) :=
  match o with
  | .next t => (List.range n).map fun j => (Memory.get? t.bmem (64 + j)).map BitVec.toNat
  | .fault _ | .refused _ => []

/-- STATUS after a command, as the port reads it. -/
def statusAfter (o : Host.Outcome State Fault Refusal) : Option Nat :=
  match o with
  | .next t => some t.status.word.toNat
  | .fault _ | .refused _ => none

/-- An entry of HMEM, KMEM or LUT after a command, and OTSU_T. -/
def hmemAfter (o : Host.Outcome State Fault Refusal) (i : Nat) : Option Nat :=
  match o with
  | .next t => (Memory.get? t.hmem i).map BitVec.toNat
  | .fault _ | .refused _ => none

def kmemAfter (o : Host.Outcome State Fault Refusal) (i : Nat) : Option Nat :=
  match o with
  | .next t => (Memory.get? t.kmem i).map BitVec.toNat
  | .fault _ | .refused _ => none

def lutAfter (o : Host.Outcome State Fault Refusal) (i : Nat) : Option Nat :=
  match o with
  | .next t => (Memory.get? t.lut i).map BitVec.toNat
  | .fault _ | .refused _ => none

def otsuAfter (o : Host.Outcome State Fault Refusal) : Option Nat :=
  match o with
  | .next t => some t.otsuT.toNat
  | .fault _ | .refused _ => none

/-- Image A of 95_test_vectors.md. -/
def imageA : List Nat := [10, 20, 30, 40, 50, 60, 70, 80, 90, 100, 110, 120, 130, 140, 150, 160]

/-- The image RGB4 of 95_test_vectors.md. -/
def rgb4 : List Nat := [255, 0, 0, 0, 255, 0, 0, 0, 255, 200, 100, 50]

/-- R143, example. -/
theorem test_neg : outBytes (exec .neg (demo 2 1 1 [0, 200])) 2 = [some 255, some 55] := by decide +kernel
/-- R143, state written: LUT[v] = 255 - v, whether or not v occurs. -/
theorem test_neg_lut : lutAfter (exec .neg (demo 2 1 1 [0, 200])) 7 = some 248 := by decide +kernel
/-- R144, example; the tie at 15. -/
theorem test_log : outBytes (exec .log (demo 5 1 1 [0, 1, 15, 100, 255])) 5 =
    [some 0, some 32, some 128, some 212, some 255] := by decide +kernel
/-- R146, example with Gc = 512. -/
theorem test_gamma :
    outBytes (exec .gamma (withOperands (demo 5 1 1 [0, 12, 128, 200, 255]) fun o => { o with gamma := 512 })) 5 =
      [some 0, some 1, some 64, some 157, some 255] := by decide +kernel
/-- R148, example with T = 128. -/
theorem test_thresh : outBytes (exec .thresh (demo 4 1 1 [0, 127, 128, 255])) 4 =
    [some 0, some 0, some 255, some 255] := by decide +kernel
/-- R148 on RGB: one output channel; vector V1, RGB4 at T = 128. -/
theorem test_thresh_rgb : outBytes (exec .thresh (demo 2 2 3 rgb4)) 5 = [some 0, some 255, some 0, some 0, none] := by
  decide +kernel
/-- R170, example. -/
theorem test_hist : [29, 76, 124, 150, 0, 255].map (hmemAfter (exec .hist (demo 2 2 3 rgb4))) =
    [some 1, some 1, some 1, some 1, some 0, some 0] := by decide +kernel
/-- R172, example, h[10] = 5, h[200] = 7: V rises at t = 10, and neither t = 11, nor t = 199, nor t = 200 exceeds it. -/
theorem test_otsu_example :
    let h := (List.range 256).map fun i => if i = 10 then 5 else if i = 200 then 7 else 0
    [(10, 9), (11, 10), (199, 10), (200, 10)].map (fun p => varGreater h p.1 p.2) = [true, false, false, false] := by
  decide +kernel
/-- R175: the least of the tied thresholds between two occupied bins. -/
theorem test_otsu_least : otsuThreshold [0, 0, 0, 5, 0, 0, 7] = 3 := by decide +kernel
/-- R176: one occupied bin. -/
theorem test_otsu_single : otsuAfter (exec .otsu
    { State.reset with hmem := (List.range 256).map fun i => (i, if i = 77 then 9 else 0) }) = some 77 := by
  decide +kernel
/-- R197, vector V4.3, image A with the sharpening kernel, BORDER = 0. -/
theorem test_conv :
    outBytes (exec .conv
      { withOperands (demo 4 4 1 imageA) (fun o => { o with ksize := 3 }) with
        kmem := Memory.cells 0 [0, 0xFF000000, 0, 0xFF000000, 0x05000000, 0xFF000000, 0, 0xFF000000, 0] }) 16 =
      [0, 0, 0, 10, 40, 60, 70, 90, 80, 100, 110, 130, 160, 180, 190, 210].map some := by decide +kernel
/-- R194, vector V4.3: the kernel is not flipped; only KMEM[0] set, BORDER = 0. -/
theorem test_conv_not_flipped :
    outBytes (exec .conv
      { withOperands (demo 4 4 1 imageA) (fun o => { o with ksize := 3 }) with
        kmem := Memory.cells 0 [0x01000000, 0, 0, 0, 0, 0, 0, 0, 0] }) 16 =
      [10, 10, 20, 30, 10, 10, 20, 30, 50, 50, 60, 70, 90, 90, 100, 110].map some := by decide +kernel
/-- 93 U4: k = 1, KMEM[0] unwritten: the sample 1 gives a free value of its own, the sample 0 depends on no entry. -/
theorem test_conv_unwritten :
    let s := demo 2 1 1 [0, 1]
    let f := s.convSample ⟨s.src, .reflect, 1⟩ (s.kernel 1) (s.kernelUnwritten 1)
    f 1 0 0 = Config.freeByte 0 [1, 0, 0] ∧
      f 0 0 0 = sampleByte (quantise (s.correlate s.src .reflect 1 (s.kernel 1) 0 0 0)) :=
  ⟨if_neg (by decide), if_pos (by decide)⟩
/-- 93 U5: OTSU with HMEM[255] alone written: a free value. -/
theorem test_otsu_unwritten :
    State.otsuResult { State.reset with hmem := [(255, 1)] } [] = (Config.freeByte 0 []).toNat :=
  if_neg fun h => absurd (h 0 (by decide)) (by decide)
/-- R198, vector V4.1, image A with k = 3, BORDER = 0. -/
theorem test_box :
    outBytes (exec .box (withOperands (demo 4 4 1 imageA) fun o => { o with ksize := 3 })) 16 =
      [27, 33, 43, 50, 53, 60, 70, 77, 93, 100, 110, 117, 120, 127, 137, 143].map some := by decide +kernel
/-- R192, vector V4.1: 2 x 1, k = 11, where the reflection is repeated. -/
theorem test_box_small_image :
    outBytes (exec .box (withOperands (demo 2 1 1 [10, 200]) fun o => { o with ksize := 11 })) 2 =
      [some 96, some 114] := by decide +kernel
/-- R200, example: 3 x 3 with 255 at the centre. -/
theorem test_gauss :
    outBytes (exec .gauss (withOperands (demo 3 3 1 [0, 0, 0, 0, 255, 0, 0, 0, 0]) fun o => { o with ksize := 3 })) 9 =
      [19, 32, 19, 32, 52, 32, 19, 32, 19].map some := by decide +kernel
/-- R199, example: the coefficients for k = 3, Sc = 256, which GAUSS leaves in KMEM; the lower list agrees. -/
theorem test_gauss_kernel :
    gcoef 3 256 = [1260197, 2077714, 1260197, 2077714, 3425571, 2077714, 1260197, 2077714, 1260197] ∧
    gcoefBelow 3 256 = gcoef 3 256 ∧
    kmemAfter (exec .gauss (withOperands (demo 1 1 1 [9]) fun o => { o with ksize := 3 })) 4 = some 3425571 := by
  decide +kernel
/-- R201, vector V4.6, image A with k = 3, Sc = 256, Ac = 384. -/
theorem test_unsharp :
    outBytes (exec .unsharp (withOperands (demo 4 4 1 imageA) fun o => { o with ksize := 3, amount := 384 })) 16 =
      [0, 4, 14, 28, 46, 60, 70, 85, 86, 100, 110, 125, 142, 157, 167, 181].map some := by decide +kernel
/-- R230, worked value (1), image A, BORDER = 0. -/
theorem test_sobel :
    outBytes (exec .sobel (demo 4 4 1 imageA)) 16 =
      [0, 22, 22, 0, 244, 255, 255, 244, 244, 255, 255, 244, 0, 22, 22, 0].map some := by decide +kernel
/-- R230, worked value (3): RGB, one output channel. -/
theorem test_sobel_rgb : outBytes (exec .sobel (demo 2 2 3 rgb4)) 5 = [some 81, some 0, some 255, some 182, none] := by
  decide +kernel
/-- R251, example: 2 x 2 to 4 x 4. -/
theorem test_resizeNn :
    outBytes (exec .resizeNn (withOperands (demo 2 2 1 [0, 255, 255, 0]) fun o => { o with newW := 4, newH := 4 })) 16 =
      [0, 0, 255, 255, 0, 0, 255, 255, 255, 255, 0, 0, 255, 255, 0, 0].map some := by decide +kernel
/-- R252, example: 2 x 1 to 4 x 1. -/
theorem test_resizeBl :
    outBytes (exec .resizeBl (withOperands (demo 2 1 1 [0, 255]) fun o => { o with newW := 4 })) 4 =
      [0, 64, 191, 255].map some := by decide +kernel
/-- R254, example: the tie 0.5 rounds up. -/
theorem test_resizeBl_tie :
    outBytes (exec .resizeBl (withOperands (demo 2 1 1 [0, 1]) fun o => { o with newW := 3 })) 3 =
      [0, 1, 1].map some := by decide +kernel

/-! ## Errors, ports, steps -/

/-- Program P4, line 2: BOX after reset reports UnsupportedChannelCount, STATUS = 0x304. -/
theorem test_error_channels : statusAfter (step (State.reset.withFetchWord 32 0x21)) = some 0x304 := by decide +kernel
/-- Program P4, line 8: KSIZE = 4 and an overlapping destination report InvalidParameter. -/
theorem test_error_parameter :
    statusAfter (step ((withOperands (demo 4 4 1 imageA) fun o => { o with ksize := 4, dstAddr := 8 }).withFetchWord
      32 0x21)) = some 0x204 := by decide +kernel
/-- Program P4, line 11: the overlap alone reports InvalidBuffer. -/
theorem test_error_overlap :
    statusAfter (step ((withOperands (demo 4 4 1 imageA) fun o => { o with dstAddr := 8 }).withFetchWord 32 0x21)) =
      some 0x104 := by decide +kernel
/-- Program P4, line 20: a destination adjacent to the source is legal. -/
theorem test_adjacent_destination :
    statusAfter (step ((withOperands (demo 4 4 1 imageA) fun o => { o with dstAddr := 16 }).withFetchWord 32 0x21)) =
      some 0x002 := by decide +kernel
/-- Program P4, line 18: the word 0x124 reports InvalidCommand. -/
theorem test_error_command : statusAfter (step (State.reset.withFetchWord 32 0x124)) = some 0x404 := by decide +kernel
/-- Program P4, line 22: a write to KSIZE while busy is dropped and sets BUSYWR. -/
theorem test_busy_write :
    (serve (scriptWr .ksize 5) (State.reset.accept 0x21)).operands.ksize = 0 ∧
    (serve (scriptWr .ksize 5) (State.reset.accept 0x21)).status.word = 0x009 := by decide +kernel
/-- R74: a 4-byte read is little-endian. -/
theorem test_bmem_little_endian : State.memRead (demo 4 1 1 [1, 2, 3, 4]) 0 4 = 0x04030201 := by decide +kernel
/-- R192, examples, n = 3, i = -7 .. 9, and n = 2, i = -6 .. 7. -/
theorem test_reflect :
    ((List.range 17).map fun i => bidx ((i : Int) - 7) 3 .reflect) =
      [0, 0, 1, 2, 2, 1, 0, 0, 1, 2, 2, 1, 0, 0, 1, 2, 2].map some ∧
    ((List.range 14).map fun i => bidx ((i : Int) - 6) 2 .reflect) =
      [1, 0, 0, 1, 1, 0, 0, 1, 1, 0, 0, 1, 1, 0].map some := by decide
/-- R10, examples. -/
theorem test_round : [rndDiv 1 2, rndDiv 3 2, rndDiv 5 2, rndDiv 255 2, rndDiv (-1) 2, rndDiv (-3) 2] =
    [1, 2, 3, 128, 0, -1] := by decide
/-- R113: the pseudo-instruction `src` of program P1 writes five registers. -/
theorem test_script_src : (scriptSrc 0 4 4 1).length = 5 ∧ scriptRun .box = [.regWrite 4 0x010 0x21, .wait] := by
  decide

/-! ## Witnesses: the hypotheses of each obligation are met -/

/-- A 2 x 1 image with every check of every command met. -/
def good : State := demo 2 1 1 [10, 200]

/-- The same with the command word w in flight. -/
def flying (w : Word) : State := good.placeCommand w

/-- R114: eight digits; log 22 for the letter case. -/
theorem test_hex_word : hexWord 0x0A1B2C3F = "0a1b2c3f" := by decide +kernel
theorem test_witness_PrintingAndAssemblingAreInverse : ∀ i, (0x124 : Word) ≠ encode i := by
  intro i; cases i <;> decide
theorem test_witness_StepRunsTheCommandInFlight :
    (flying 0x31).engineMoves = true ∧ decode (flying 0x31).cmd = .ok .resizeBl := by decide
theorem test_witness_IllegalWordRaisesInvalidCommand :
    (flying 0x124).engineMoves = true ∧ ∀ i, (flying 0x124).cmd ≠ encode i := by
  refine ⟨by decide, ?_⟩
  intro i; cases i <;> decide
theorem test_witness_StepServesTheHost :
    (State.engineMoves { good with inbox := [.rst] } = false ∧
      State.engineMoves { flying 1 with inbox := [.rst], schedule := [.host] } = false) ∧
    good.status.busy = false ∧ good.inbox = [] := by decide
theorem test_witness_CommandInFlightCompletes : (flying 0x21).status.busy = true := by decide
theorem test_witness_StepKeepsTheInvariant : StateInv State.reset ∧ step State.reset = .next State.reset :=
  ⟨⟨by decide, Status.reset_legal, .inl rfl, Memory.nil_wf _, Memory.nil_wf _, Memory.nil_wf _, Memory.nil_wf _⟩, rfl⟩
theorem test_witness_StepKeepsTheInvariant_command :
    StateInv { State.reset with status := Status.reset.accepted, cmd := 0x11 } ∧
      ∃ t, step { State.reset with status := Status.reset.accepted, cmd := 0x11 } = .next t :=
  ⟨⟨by decide, Status.accepted_legal _, .inl rfl, Memory.nil_wf _, Memory.nil_wf _, Memory.nil_wf _,
    Memory.nil_wf _⟩, exec_next .otsu _⟩
theorem test_witness_RegisterMap : place 0x060 = some (.reg .otsuT) ∧ place 0x7FC = some (.hmem 255) ∧
    place 0x9E0 = some (.kmem 120) ∧ place 0xFFC = some (.lut 255) ∧
    [0x002, 0x048, 0x04C, 0x064, 0x3FC, 0x9E4, 0xBFC, 0x1000].map place = List.replicate 8 none := by decide
theorem test_witness_BadAccessesHaveNoEffect :
    serve (.regRead 2 0x008) good = good.answer .error ∧ serve (.regWrite 4 0x3FC 1) good = good.answer .error ∧
    serve (.bmemRead 0 3) good = good.answer .error ∧ serve (.bmemWrite 1 2 0) good = good.answer .error ∧
    serve (.bmemRead (2 ^ 24) 4) good = good.answer .error := by decide +kernel
theorem test_witness_idle : good.status.busy = false ∧ Reg.amount.offset = 0x044 := by decide
theorem test_witness_busy :
    (flying 1).status.busy = true ∧ (flying 1).status.done = false ∧ (flying 1).status.err = false ∧
    (flying 1).status.errCode = 0 ∧ HostTx.regWrite 4 0xFFC 0 ≠ .rst ∧ HostTx.rst ∉ (flying 1).inbox ∧ decode (flying 1).cmd = .ok .neg := by decide
theorem test_witness_WritesWhileBusyAreDropped :
    serve (.regWrite 4 0xFFC 7) (flying 1) = (flying 1).drop.answer .written ∧
    serve (.bmemWrite (2 ^ 24 - 4) 4 7) (flying 1) = (flying 1).drop.answer .written := by decide +kernel
theorem test_witness_RegisterReads :
    serve (.regRead 4 0x044) (flying 1) = (flying 1).answer (.data 0) ∧
    serve (.regRead 4 0x060) good = good.answer (.data 0) ∧
    serve (.regRead 4 0x014) good = good.answer (.data 0) := by decide +kernel
/-- The ends of the three windows, with written entries; the LUT entry is zero-extended (R55). -/
theorem test_witness_RegisterReads_windows :
    let s := { good with hmem := [(255, 5)], kmem := [(120, 6)], lut := [(255, 255)] }
    s.status.busy = false ∧ serve (.regRead 4 0x7FC) s = s.answer (.data 5) ∧
    serve (.regRead 4 0x9E0) s = s.answer (.data 6) ∧ serve (.regRead 4 0xFFC) s = s.answer (.data 0x000000FF) := by
  decide +kernel
theorem test_witness_HistogramAndKernelReadBack :
    Memory.get? (serve (.regWrite 4 0x7FC 5) good).hmem 255 = some 5 ∧
    Memory.get? (serve (.regWrite 4 0x9E0 6) good).kmem 120 = some 6 := by decide +kernel
theorem test_witness_BmemWriteReadsBackLittleEndian :
    good.status.busy = false ∧ (2 ^ 24 - 4) % 4 = 0 ∧ 2 ^ 24 - 4 + 4 ≤ good.bmemBytes ∧
    Memory.get? (serve (.bmemWrite (2 ^ 24 - 4) 4 0x04030201) good).bmem (2 ^ 24 - 1) = some 4 := by decide +kernel

/-! Each kind of first failure, and each of the three ways to InvalidBuffer. -/

theorem test_witness_first_failure_channels : FirstFailure .hist State.reset .unsupportedChannelCount := by
  refine ⟨rfl, ?_⟩; decide
theorem test_witness_first_failure_source :
    FirstFailure .hist (withOperands good fun o => { o with srcW := 0 }) .invalidBuffer := by
  refine .inl ⟨rfl, ?_, ?_⟩ <;> decide
theorem test_witness_first_failure_source_range :
    FirstFailure .hist (withOperands good fun o => { o with srcAddr := 0xFFFFFF }) .invalidBuffer := by
  refine .inl ⟨rfl, ?_, ?_⟩ <;> decide
theorem test_witness_first_failure_destination :
    FirstFailure .box (withOperands good fun o => { o with dstAddr := 1 }) .invalidBuffer := by
  refine .inr (.inl ⟨rfl, by decide, ⟨by decide, by decide⟩, ?_⟩)
  simp only [DestinationOk]; decide
theorem test_witness_first_failure_histogram :
    FirstFailure .otsu { State.reset with hmem := Memory.cells 0 (List.replicate 256 0) } .invalidBuffer := by
  refine .inr (.inr ⟨rfl, ?_⟩)
  intro i hi
  rw [State.wordAt, Memory.get?_cells, if_pos (by omega), Nat.sub_zero, List.getElem?_replicate, if_pos hi]
  rfl
theorem test_witness_first_failure_parameter :
    FirstFailure .conv (withOperands good fun o => { o with ksize := 4 }) .invalidParameter := by
  refine ⟨rfl, by decide, ?_⟩
  rintro ⟨-, h⟩; revert h; decide

/-- The operand conditions of every command that reads a source are met by `good`, in each border mode. -/
theorem test_witness_results :
    SrcOk good ∧ DstOk good good.src.w good.src.h good.src.c ∧ DstOk good good.src.w good.src.h 1 ∧
    DstOk good good.operands.newW.toNat good.operands.newH.toNat good.src.c ∧
    PositiveUq88 good.operands.gamma ∧ good.operands.thresh.toNat ≤ 255 ∧ BorderIs good .reflect ∧
    BorderIs (withOperands good fun o => { o with border := 1 }) .replicate ∧
    BorderIs (withOperands good fun o => { o with border := 2 }) .zero ∧ KsizeOk good ∧
    PositiveUq88 good.operands.sigma ∧ Uq88 good.operands.amount ∧ NewDimOk good.operands.newW ∧
    NewDimOk good.operands.newH := by decide
/-- The same at the boundary values: KSIZE 11, SIGMA and AMOUNT 65535, THRESH 255, a source that ends where BMEM ends. -/
theorem test_witness_results_boundary :
    let s := withOperands good fun o =>
      { o with ksize := 11, sigma := 65535, amount := 65535, gamma := 1, thresh := 255, srcAddr := 0xFFFFFE }
    SrcOk s ∧ DstOk s s.src.w s.src.h s.src.c ∧ KsizeOk s ∧ PositiveUq88 s.operands.sigma ∧ Uq88 s.operands.amount ∧
      PositiveUq88 s.operands.gamma ∧ s.operands.thresh.toNat ≤ 255 := by decide
/-- `good` passes the checks of every command but OTSU. -/
theorem test_witness_ChecksPass : ∀ i : Instr, i ≠ .otsu → ChecksPass i good := by
  intro i hi
  obtain ⟨h1, h2, h3, h4, h5, h6, h7, -, -, h8, h9, h10, h11, h12⟩ := test_witness_results
  have hb : good.operands.border ≠ 3 := by decide
  refine ⟨fun _ => h1, ?_, ?_, fun h => absurd h hi⟩
  · cases i
    case gamma => exact h5
    case thresh => exact h6
    case conv | box => exact ⟨hb, h8⟩
    case gauss => exact ⟨hb, h8, h9⟩
    case unsharp => exact ⟨hb, h8, h9, h10⟩
    case sobel => exact hb
    case resizeNn | resizeBl => exact ⟨h11, h12⟩
    all_goals exact trivial
  · intro h
    cases i
    case thresh | sobel => exact h3
    case resizeNn | resizeBl => exact h4
    case hist | otsu => exact absurd h (by decide)
    all_goals exact h2
theorem test_witness_ChecksFail : ¬ChecksPass .box State.reset := by
  rintro ⟨h, -⟩
  have := (h rfl).1
  revert this; decide
/-- Every command has a next state from `good`. -/
theorem test_witness_frames : ∀ i : Instr, ∃ t, exec i good = .next t := fun i => exec_next i good
theorem test_witness_SourceRangeIsNeverWritten :
    readsSource .sobel = true ∧ (∃ t, exec .sobel good = .next t) ∧ good.src.addr ≤ 1 ∧
      1 < good.src.addr + good.operands.srcLen.toNat := ⟨rfl, exec_next _ _, by decide, by decide⟩
/-- Two states that differ in what NEG does not read: parameters, the destination's old bytes, the result registers. -/
theorem test_witness_CommandsDependOnlyOnTheirInputs :
    AgreeOnInputs .neg good
      { withOperands good (fun o => { o with gamma := 0, ksize := 4 }) with
        bmem := good.bmem ++ [(64, 7)], otsuT := 9 } := by
  refine ⟨rfl, rfl, rfl, fun _ => ⟨rfl, rfl, fun a _ h => ?_⟩, fun _ => rfl, by simp, by simp, by simp, nofun, nofun,
    nofun, by simp, nofun, nofun⟩
  have h2 : a < 2 := h
  interval_cases a <;> rfl
theorem test_witness_SampleAddressing : Memory.get? good.bmem (good.operands.srcAddr.toNat +
    (0 * good.operands.srcW.toNat + 1) * good.operands.srcC.toNat + 0) = some 200 := by decide
theorem test_witness_GrayscaleView :
    (good.src.c = 1 ∧ Memory.get? good.bmem (good.src.addr + (0 * good.src.w + 1)) = some 200) ∧
    (demo 2 2 3 rgb4).src.c = 3 ∧
    ([0, 1, 2].map fun j => Memory.get? (demo 2 2 3 rgb4).bmem
      ((demo 2 2 3 rgb4).src.addr + (1 * (demo 2 2 3 rgb4).src.w + 1) * 3 + j)) = [some 200, some 100, some 50] := by
  decide
/-- R192 at n = 1 and where the clauses meet: -n, -1, 0, n - 1, n, 2n - 1. -/
theorem test_witness_BorderIndexMap :
    [-3, -1, 0, 2, 3, 5].map (fun i => bidx i 3 .reflect) = [some 2, some 0, some 0, some 2, some 2, some 0] ∧
    [-1, 0, 2, 3].map (fun i => bidx i 3 .replicate) = [some 0, some 0, some 2, some 2] ∧
    [-1, 0, 2, 3].map (fun i => bidx i 3 .zero) = [none, some 0, some 2, none] ∧
    [-5, 0, 7].map (fun i => bidx i 1 .reflect) = [some 0, some 0, some 0] := by decide
theorem test_witness_PaddedSample :
    bidx (-1) good.src.w .reflect = some 0 ∧ bidx 0 good.src.h .reflect = some 0 ∧
    bidx 2 good.src.w .zero = none ∧ bidx (-1) good.src.h .zero = none := by decide
theorem test_witness_GammaTable : gammaTable 1 1 = 250 ∧ gammaTable 65535 255 = 255 ∧ gammaTable 26 1 = 145 := by
  decide +kernel
/-- Histograms that are not empty, one with one occupied bin and one with two. -/
theorem test_witness_OtsuResult :
    ¬HistogramEmpty { State.reset with hmem := [(255, 1)] } ∧
    (∀ v w : List Word, v.length + w.length = 255 →
      State.HistogramWritten { State.reset with hmem := Memory.cells 0 (v ++ 1 :: w) }) ∧
    (∀ i < 256, hmemCount { State.reset with hmem := Memory.cells 0 (1 :: List.replicate 255 0) } i ≠ 0 ↔ i = 0) ∧
    ¬∃ v < 256, ∀ i < 256, hmemCount { State.reset with hmem := Memory.cells 0 (1 :: (List.replicate 254 0 ++ [1])) } i ≠ 0 ↔
      i = v := by
  refine ⟨fun h => absurd (h 255 (by omega)) (by decide), fun v w hl i hi => ?_, fun i hi => ?_, ?_⟩
  · have hi : i < 256 := hi
    rw [Memory.get?_cells, if_pos (by omega), Nat.sub_zero]
    simp; omega
  · rw [hmemCount, State.wordAt, Memory.get?_cells, if_pos (by omega), Nat.sub_zero]
    cases i with
    | zero => decide
    | succ n => rw [List.getElem?_cons_succ, List.getElem?_replicate, if_pos (by omega)]; simp
  · rintro ⟨v, -, h⟩
    have h0 := (h 0 (by omega)).1 (by decide)
    have h255 := (h 255 (by omega)).1 (by decide +kernel)
    omega
/-- The hypotheses of the copying commands: k = 1, amount 0, gamma 1.0, identity scale, a written byte. -/
theorem test_witness_IdentityCommandsCopyTheSource :
    (∀ i : Instr, i ≠ .otsu → ChecksPass i good ∧ ∃ t, exec i good = .next t) ∧
    good.operands.ksize = 1 ∧ good.operands.amount = 0 ∧ good.operands.gamma = 256 ∧
    good.operands.newW = good.operands.srcW ∧ good.operands.newH = good.operands.srcH ∧
    1 < good.operands.srcLen.toNat ∧ Memory.get? good.bmem (good.src.addr + 1) = some 200 :=
  ⟨fun i hi => ⟨test_witness_ChecksPass i hi, exec_next i good⟩, by decide⟩
/-- A constant source, for the statements about constant and uniform images. -/
theorem test_witness_constant :
    (∀ i : Instr, i ≠ .otsu → ChecksPass i (demo 2 1 1 [77, 77]) ∧ ∃ t, exec i (demo 2 1 1 [77, 77]) = .next t) ∧
    (∀ n < (demo 2 1 1 [77, 77]).operands.srcLen.toNat,
      Memory.get? (demo 2 1 1 [77, 77]).bmem ((demo 2 1 1 [77, 77]).src.addr + n) = some 77) ∧
    BorderIs (demo 2 1 1 [77, 77]) .reflect :=
  ⟨fun i hi => ⟨test_witness_ChecksPass i hi, exec_next i _⟩, by decide, by decide⟩
/-- The same with three unequal channels. -/
theorem test_witness_constant_rgb :
    let s := demo 2 1 3 [255, 0, 7, 255, 0, 7]
    let v : Nat → Byte := fun c => [255, 0, 7].getD c 0
    (∀ i ∈ [Instr.box, .gauss, .sobel, .resizeNn, .resizeBl], ChecksPass i s) ∧
    (∀ n < s.operands.srcLen.toNat, Memory.get? s.bmem (s.src.addr + n) = some (v (n % s.src.c))) ∧
    BorderIs s .reflect := by
  refine ⟨fun i hi => ⟨fun _ => by decide, ?_, fun _ => ?_, fun h => ?_⟩, by decide, by decide⟩ <;>
    fin_cases hi <;> first | exact (by decide) | cases h | (simp only [ParamsOk]; decide) | (simp only [DestinationOk]; decide)
theorem test_witness_SobelNormalisation : sobelNorm 32000 27200 108800 = 22 ∧ sobelNorm 5 5 5 = 0 := by decide +kernel
/-- The extreme coefficients: k = 11 with the smallest and the largest SIGMA code; the two lists agree. -/
theorem test_witness_GaussianCoefficients :
    (gcoef 11 1).getD 60 0 = 2 ^ 24 ∧ gcoefBelow 11 1 = gcoef 11 1 ∧ gcoefBelow 11 65535 = gcoef 11 65535 := by
  decide +kernel

end Sys2Proof.Tests
end

section
/-! The machine's invariant is kept by every step: first what the operations on the state keep, then what the host's
transactions and a completing command keep, and from these the step (R24, R43, R50, R52, R55, R70). -/

namespace Sys2Proof.Machine

/-! ## What the operations on the state keep -/

@[simp] theorem bytesOf_length (n : Nat) (v : Word) : (bytesOf n v).length = n := by simp [bytesOf]

section
variable {s : State}

theorem StateInv.answer (h : StateInv s) (a : Answer) : StateInv (s.answer a) :=
  ⟨h.size, h.status, h.out, h.memories⟩

theorem StateInv.turn (h : StateInv s) : StateInv s.turn :=
  ⟨h.size, h.status, h.out, h.memories⟩

theorem StateInv.withInbox (h : StateInv s) (inbox : List HostTx) : StateInv { s with inbox := inbox } :=
  ⟨h.size, h.status, h.out, h.memories⟩

theorem StateInv.withIrqEn (h : StateInv s) (e : IrqEn) : StateInv { s with irqEn := e } :=
  ⟨h.size, h.status, h.out, h.memories⟩

theorem StateInv.withOperands (h : StateInv s) (o : OperandRegs) : StateInv { s with operands := o } :=
  ⟨h.size, h.status, h.out, h.memories⟩

theorem StateInv.accept (h : StateInv s) (w : Word) : StateInv (s.accept w) :=
  ⟨h.size, Status.accepted_legal _, h.out, h.memories⟩

theorem StateInv.acknowledge (h : StateInv s) (v : Word) : StateInv (s.acknowledge v) :=
  ⟨h.size, Status.cleared_legal v h.status, h.out, h.memories⟩

theorem StateInv.drop (h : StateInv s) : StateInv s.drop :=
  ⟨h.size, Status.dropped_legal h.status, h.out, h.memories⟩

/-- An error is only taken by a command in flight: then DONE is 0, and ERR can be set beside it. -/
theorem StateInv.takeError (h : StateInv s) (hb : s.status.busy = true) (e : ErrorKind) : StateInv (s.takeError e) :=
  ⟨h.size, Status.failed_legal e h.status hb, h.out, h.memories⟩

/-- Reset leaves BMEM_BYTES and empties every memory. -/
theorem StateInv.assertReset (h : StateInv s) : StateInv s.assertReset :=
  ⟨h.size, Status.reset_legal, .inl rfl, Memory.nil_wf _, Memory.nil_wf _, Memory.nil_wf _, Memory.nil_wf _⟩

theorem StateInv.memWrite (h : StateInv s) {addr n : Nat} (v : Word) (ha : addr + n ≤ s.bmemBytes) :
    StateInv (s.memWrite addr n v) := by
  obtain ⟨hbmem, hhmem, hkmem, hlut⟩ := h.memories
  exact ⟨h.size, h.status, h.out, Memory.store_wf hbmem (by simpa using ha), hhmem, hkmem, hlut⟩

theorem StateInv.storeHmem (h : StateInv s) {i : Nat} (v : Word) (hi : i < Config.hmemEntries) :
    StateInv { s with hmem := Memory.store s.hmem i [v] } := by
  obtain ⟨hbmem, hhmem, hkmem, hlut⟩ := h.memories
  exact ⟨h.size, h.status, h.out, hbmem, Memory.store_wf hhmem hi, hkmem, hlut⟩

theorem StateInv.storeKmem (h : StateInv s) {n : Nat} (v : Word) (hn : n < Config.kmemEntries) :
    StateInv { s with kmem := Memory.store s.kmem n [v] } := by
  obtain ⟨hbmem, hhmem, hkmem, hlut⟩ := h.memories
  exact ⟨h.size, h.status, h.out, hbmem, hhmem, Memory.store_wf hkmem hn, hlut⟩

/-! ## What the host's transactions keep -/

/-- A legal BMEM transaction lies inside BMEM (R72). -/
theorem bmemLegal_range {addr n : Nat} (hl : bmemLegal s addr n = true) : addr + n ≤ s.bmemBytes := by
  simp only [bmemLegal, Bool.and_eq_true, decide_eq_true_eq] at hl
  exact hl.2

/-- While idle the host stores only to the operand registers, CMD, HMEM and KMEM (R310), at an entry the register map
reaches. -/
theorem StateInv.writeIdle (h : StateInv s) (v : Word) {off : Nat} {p : Place} (hp : place off = some p) :
    StateInv (s.writeIdle v p) := by
  cases p with
  | reg r =>
    cases r with
    | cmd => exact h.accept v
    | _ => exact h.withOperands _
  | hmem i => exact h.storeHmem v (place_hmem_lt hp)
  | kmem n => exact h.storeKmem v (place_kmem_lt hp)
  | lut i => exact h

theorem StateInv.writePlace (h : StateInv s) (v : Word) {off : Nat} {p : Place} (hp : place off = some p) :
    StateInv (s.writePlace v p) := by
  rcases writePlace_cases s v p with ⟨-, hw⟩ | ⟨-, hw⟩ | ⟨-, -, -, hw⟩ | ⟨-, -, -, hw⟩ <;> rw [hw]
  · exact h.acknowledge v
  · exact h.withIrqEn _
  · exact h.drop
  · exact h.writeIdle v hp

/-- A register access that is answered without an error reaches a place of the register map (R71). -/
theorem place_of_regAccess {bytes off : Nat} {p : Place} (ha : regAccess bytes off = some p) : place off = some p := by
  unfold regAccess at ha
  split at ha
  · exact ha
  · cases ha

/-- Every host transaction keeps the invariant. -/
theorem StateInv.serve (h : StateInv s) (tx : HostTx) : StateInv (serve tx s) := by
  cases tx with
  | regRead bytes off => simp only [Machine.serve]; split <;> exact h.answer _
  | regWrite bytes off v =>
    simp only [Machine.serve]
    split
    · next p ha => exact (h.writePlace v (place_of_regAccess ha)).answer _
    · exact h.answer _
  | bmemRead addr n => simp only [Machine.serve]; split <;> exact h.answer _
  | bmemWrite addr n v =>
    simp only [Machine.serve]
    split
    · next hl =>
      split
      · exact h.drop.answer _
      · exact (h.memWrite v (bmemLegal_range hl)).answer _
    · exact h.answer _
  | wait =>
    simp only [Machine.serve]
    split
    · exact (h.answer _).withInbox _
    · exact h.answer _
  | rst => exact h.assertReset

end

/-! ## What a completing command keeps -/

/-- A command that produces a buffer reads a source (R105). -/
theorem readsSource_of_producesBuffer {i : Instr} (h : producesBuffer i = true) : readsSource i = true := by
  cases i with
  | hist | otsu => cases h
  | _ => rfl

/-- A produced buffer has one channel or three (R132). -/
theorem outDims_channels {i : Instr} {s : State} (hp : producesBuffer i = true) (hc : ChannelsOk s) :
    (outDims i s).2.2 = 1 ∨ (outDims i s).2.2 = 3 := by
  cases i with
  | hist | otsu => cases hp
  | thresh | sobel => exact .inl rfl
  | neg | log | gamma | conv | box | gauss | unsharp | resizeNn | resizeBl => exact hc

/-- The result registers hold legal dimensions and, where it fits 32 bits, their product (R40 to R43). -/
theorem outLegal_ofNat {w h c : Nat} (hw : 1 ≤ w ∧ w ≤ 65535) (hh : 1 ≤ h ∧ h ≤ 65535) (hc : c = 1 ∨ c = 3)
    (hl : w * h * c < 2 ^ 32) :
    OutLegal ⟨BitVec.ofNat 32 w, BitVec.ofNat 32 h, BitVec.ofNat 32 c, BitVec.ofNat 32 (w * h * c)⟩ := by
  have toNat_ofNat {n : Nat} (hn : n < 2 ^ 32) : (BitVec.ofNat 32 n).toNat = n := by
    rw [BitVec.toNat_ofNat, Nat.mod_eq_of_lt hn]
  refine .inr ?_
  simp only [toNat_ofNat (n := w) (by omega), toNat_ofNat (n := h) (by omega), toNat_ofNat (n := c) (by omega),
    toNat_ofNat hl]
  exact ⟨hw, hh, hc, trivial⟩

/-- A legal kernel fits KMEM (R52, R106). -/
theorem ksize_sq_le {s : State} (h : KsizeOk s) :
    s.operands.ksize.toNat * s.operands.ksize.toNat ≤ Config.kmemEntries := by
  have hk : s.operands.ksize.toNat ≤ 11 := by simp only [List.mem_cons, List.not_mem_nil, or_false] at h; omega
  exact Nat.mul_le_mul hk hk

section
variable {i : Instr} {s t : State}

/-- OUT_LEN does not wrap: the buffer lies in BMEM beside a source of at least one byte. -/
theorem Committed.outLegal (hc : Committed i s t) (h : StateInv s) : OutLegal t.out := by
  cases hp : producesBuffer i with
  | false => rw [(hc.noBuffer hp).2]; exact h.out
  | true =>
    obtain ⟨hd, hw, hh, f, -, ho⟩ := hc.buffer hp
    have hs := hc.source (readsSource_of_producesBuffer hp)
    rw [ho]
    exact outLegal_ofNat hw hh (outDims_channels hp hs.1) (outLen_lt hs hd h.size.2)

theorem Committed.bmem_wf (hc : Committed i s t) (h : Memory.wf s.bmemBytes s.bmem) : Memory.wf s.bmemBytes t.bmem := by
  cases hp : producesBuffer i with
  | false => rw [(hc.noBuffer hp).1]; exact h
  | true =>
    obtain ⟨hd, -, -, f, hm, -⟩ := hc.buffer hp
    rw [hm]
    exact Memory.store_wf h (by rw [raster_length]; exact hd.1)

theorem Committed.hmem_wf (hc : Committed i s t) (h : Memory.wf Config.hmemEntries s.hmem) :
    Memory.wf Config.hmemEntries t.hmem := by
  by_cases hi : i = .hist
  · obtain ⟨vals, hl, hm⟩ := hc.hmem hi
    rw [hm]; exact Memory.store_wf h (by rw [Nat.zero_add, hl])
  · rw [hc.noHmem hi]; exact h

theorem Committed.kmem_wf (hc : Committed i s t) (h : Memory.wf Config.kmemEntries s.kmem) :
    Memory.wf Config.kmemEntries t.kmem := by
  cases hw : writesKmem i with
  | false => rw [hc.noKmem hw]; exact h
  | true =>
    obtain ⟨hk, vals, hl, hm⟩ := hc.kmem hw
    rw [hm]; exact Memory.store_wf h (by have := ksize_sq_le hk; omega)

theorem Committed.lut_wf (hc : Committed i s t) (h : Memory.wf Config.lutEntries s.lut) :
    Memory.wf Config.lutEntries t.lut := by
  cases hw : writesLut i with
  | false => rw [hc.noLut hw]; exact h
  | true =>
    obtain ⟨vals, hl, hm⟩ := hc.lut hw
    rw [hm]; exact Memory.store_wf h (by rw [Nat.zero_add, hl])

/-- A success completion keeps the invariant. -/
theorem Committed.stateInv (hc : Committed i s t) (h : StateInv s) (hb : s.status.busy = true) : StateInv t := by
  obtain ⟨hbmem, hhmem, hkmem, hlut⟩ := h.memories
  have hsize := hc.untouched.bmemBytes
  refine ⟨?_, ?_, hc.outLegal h, ?_, hc.hmem_wf hhmem, hc.kmem_wf hkmem, hc.lut_wf hlut⟩
  · rw [hsize]; exact h.size
  · rw [hc.untouched.status]; exact Status.succeeded_legal h.status hb
  · rw [hsize]; exact hc.bmem_wf hbmem

/-- Every command keeps the invariant, whether it commits or takes an error. -/
theorem StateInv.exec (h : StateInv s) (hb : s.status.busy = true) (he : exec i s = .next t) : StateInv t := by
  rcases exec_cases i s with ⟨e, hx⟩ | ⟨u, hx, hc⟩ <;> rw [hx] at he <;> cases he
  · exact h.takeError hb e
  · exact hc.stateInv h hb

/-! ## The step -/

/-- The engine only moves with a command in flight, which the start of its move leaves in flight. -/
theorem turn_busy_of_engineMoves (h : s.engineMoves = true) : s.turn.status.busy = true := by
  simp only [State.engineMoves, Bool.and_eq_true] at h
  exact h.1

theorem StateInv.step (h : StateInv s) (hst : step s = .next t) : StateInv t := by
  rcases step_cases s with ⟨hm, i, -, hx⟩ | ⟨hm, -, hx⟩ | ⟨-, tx, rest, -, hx⟩ | ⟨-, -, hx⟩ <;> rw [hx] at hst
  · exact h.turn.exec (turn_busy_of_engineMoves hm) hst
  · cases hst; exact h.turn.takeError (turn_busy_of_engineMoves hm) _
  · cases hst; exact (h.turn.withInbox rest).serve tx
  · cases hst; exact h

end

/-- Settles O10: by the four things a step can do, each of which keeps the invariant. -/
theorem stepKeepsTheInvariant : Obligations.StepKeepsTheInvariant :=
  fun _ _ h hst => h.step hst

end Sys2Proof.Machine
end

section
/-! The register port: the register map, what a write or a read of each place does while idle and at any time, the illegal
accesses, and the values at reset (R22 to R60, R71, R72). -/

namespace Sys2Proof.Machine

/-! ## The register map (R45, R71) -/

/-- The registers lie in two blocks: ID to AMOUNT, and the results (10_state.md section 2). -/
theorem Reg.offset_blocks (r : Reg) : r.offset ≤ 0x044 ∨ 0x050 ≤ r.offset ∧ r.offset ≤ 0x060 := by cases r <;> decide

theorem place_hmem {i : Nat} (h : i < 256) : place (0x400 + 4 * i) = some (.hmem i) := by
  rw [place, if_neg (by omega), if_neg (by omega), if_pos (by omega)]
  congr 2; omega

theorem place_kmem {n : Nat} (h : n < 121) : place (0x800 + 4 * n) = some (.kmem n) := by
  rw [place, if_neg (by omega), if_neg (by omega), if_neg (by omega), if_pos (by omega)]
  congr 2; omega

theorem place_lut {v : Nat} (h : v < 256) : place (0xC00 + 4 * v) = some (.lut v) := by
  rw [place, if_neg (by omega), if_neg (by omega), if_neg (by omega), if_neg (by omega), if_pos (by omega)]
  congr 2; omega

theorem place_misaligned {off : Nat} (h : off % 4 ≠ 0) : place off = none := if_pos h

/-- Between the blocks of registers, and from their end up to HMEM, nothing is mapped. -/
theorem place_outside_blocks {off : Nat} (h : 0x044 < off ∧ off < 0x050 ∨ 0x060 < off ∧ off < 0x400) :
    place off = none := by
  have hne (r : Reg) : r.offset ≠ off := by have := r.offset_blocks; omega
  have hlt : off < 0x400 := by omega
  have hfind : Reg.all.find? (fun r => r.offset == off) = none := by simp [List.find?_eq_none, hne]
  rw [place, if_pos hlt, hfind, Option.map_none, ite_self]

/-- From the end of KMEM on only the window of the LUT reaches anything. -/
theorem place_outside_windows {off : Nat} (h1 : 0x9E4 ≤ off) (h2 : off < 0xC00 ∨ 0xFFC < off) : place off = none := by
  rw [place, if_neg (by omega : ¬off < 0x400), if_neg (by omega : ¬off < 0x800), if_neg (by omega : ¬off < 0x9E4),
    if_neg (by omega : ¬(0xC00 ≤ off ∧ off ≤ 0xFFC)), ite_self]

/-- Settles O13: the registers one by one, the three windows by arithmetic, the holes by what lies around them. -/
theorem registerMap : Obligations.RegisterMap := by
  refine ⟨by decide, place_offset, fun _ => place_hmem, fun _ => place_kmem, fun _ => place_lut, fun off h => ?_⟩
  rcases h with h | rfl | rfl | ⟨h1, h2⟩ | ⟨h1, h2⟩ | h
  · exact place_misaligned h
  · exact place_outside_blocks (by omega)
  · exact place_outside_blocks (by omega)
  · exact place_outside_blocks (by omega)
  · exact place_outside_windows h1 (by omega)
  · exact place_outside_windows (by omega) (by omega)

/-! ## What a register write does (R23, R27 to R44, R51, R54, R57, R310) -/

variable {s : State} {v : Word}

/-- A 32-bit write at a mapped offset is performed, ignored or dropped at the place it reaches (R71). -/
theorem serve_regWrite {off : Nat} {p : Place} (h : place off = some p) (s : State) (v : Word) :
    serve (.regWrite 4 off v) s = (s.writePlace v p).answer .written := by
  simp [serve, regAccess, h]

/-- While idle a write at any offset but those of STATUS and IRQ_EN takes effect at its place (R310). -/
theorem serve_writeIdle {off : Nat} {p : Place} (h : place off = some p) (h1 : p ≠ .reg .status) (h2 : p ≠ .reg .irqEn)
    (hb : s.status.busy = false) : serve (.regWrite 4 off v) s = (s.writeIdle v p).answer .written := by
  rw [serve_regWrite h]
  rcases writePlace_cases s v p with ⟨hp, -⟩ | ⟨hp, -⟩ | ⟨-, -, hbusy, -⟩ | ⟨-, -, -, hw⟩
  · exact absurd hp h1
  · exact absurd hp h2
  · rw [hb] at hbusy; cases hbusy
  · rw [hw]

/-- While idle a read at a mapped offset answers what stands there (R305). -/
theorem serve_readIdle {off : Nat} {p : Place} (h : place off = some p) (hb : s.status.busy = false) :
    serve (.regRead 4 off) s = s.answer (.data (s.placeWord p)) := by
  simp [serve, regAccess, h, State.readPlace, hb]

theorem writeIdle_reg {r : Reg} (h : r ≠ .cmd) :
    s.writeIdle v (.reg r) = { s with operands := s.operands.write v r } := by
  cases r with
  | cmd => exact absurd rfl h
  | _ => rfl

/-- While idle a write to any register but STATUS, IRQ_EN and CMD reaches the operand registers only. -/
theorem serve_regWrite_idle {r : Reg} (h : r ∉ [Reg.status, .irqEn, .cmd]) (hb : s.status.busy = false) :
    serve (.regWrite 4 r.offset v) s =
      { s with operands := s.operands.write v r, responses := .written :: s.responses } := by
  simp only [List.mem_cons, List.not_mem_nil, or_false, not_or] at h
  obtain ⟨h1, h2, h3⟩ := h
  rw [serve_writeIdle (place_offset r) (by simpa using h1) (by simpa using h2) hb, writeIdle_reg h3, State.answer]

/-- An operand register is written by a write to it and by no other (R23, R27 to R39). -/
@[simp] theorem OperandRegs.write_fields (o : OperandRegs) (v : Word) (r : Reg) :
    (o.write v r).border = (if r = .ctrl then v.setWidth 2 else o.border) ∧
    (o.write v r).srcAddr = (if r = .srcAddr then v else o.srcAddr) ∧
    (o.write v r).srcW = (if r = .srcW then v else o.srcW) ∧ (o.write v r).srcH = (if r = .srcH then v else o.srcH) ∧
    (o.write v r).srcC = (if r = .srcC then v else o.srcC) ∧
    (o.write v r).srcLen = (if r = .srcLen then v else o.srcLen) ∧
    (o.write v r).dstAddr = (if r = .dstAddr then v else o.dstAddr) ∧
    (o.write v r).newW = (if r = .newW then v else o.newW) ∧ (o.write v r).newH = (if r = .newH then v else o.newH) ∧
    (o.write v r).ksize = (if r = .ksize then v else o.ksize) ∧
    (o.write v r).sigma = (if r = .sigma then v else o.sigma) ∧
    (o.write v r).gamma = (if r = .gamma then v else o.gamma) ∧
    (o.write v r).thresh = (if r = .thresh then v else o.thresh) ∧
    (o.write v r).amount = (if r = .amount then v else o.amount) := by
  cases r <;> exact ⟨rfl, rfl, rfl, rfl, rfl, rfl, rfl, rfl, rfl, rfl, rfl, rfl, rfl, rfl⟩

/-- The registers that a host write while idle sets and that then read back (R23, R27 to R39). -/
def Reg.operands : List Reg :=
  [.ctrl, .srcAddr, .srcW, .srcH, .srcC, .srcLen, .dstAddr, .newW, .newH, .ksize, .sigma, .gamma, .thresh, .amount]

/-- CTRL has storage for its bits [1:0] only (R23). -/
theorem setWidth_two_setWidth (v : Word) : (v.setWidth 2).setWidth 32 = BitVec.ofNat 32 (v.toNat % 4) := by
  apply BitVec.eq_of_toNat_eq; simp

theorem regWord_write_same {r : Reg} (hr : r ∈ Reg.operands) (s : State) (v : Word) :
    { s with operands := s.operands.write v r }.regWord r = if r = .ctrl then BitVec.ofNat 32 (v.toNat % 4) else v := by
  simp only [Reg.operands] at hr
  fin_cases hr <;> simp [State.regWord, setWidth_two_setWidth]

theorem regWord_write_other {q r : Reg} (h : q ≠ r) (s : State) (v : Word) :
    { s with operands := s.operands.write v r }.regWord q = s.regWord q := by
  cases q <;> simp [State.regWord, h.symm]

/-- Settles O16: a write while idle reaches the operand registers only, and of these the one addressed. -/
theorem operandRegistersReadBack : Obligations.OperandRegistersReadBack := by
  intro s v hb r hr
  have hserve : serve (.regWrite 4 r.offset v) s =
      { s with operands := s.operands.write v r, responses := .written :: s.responses } :=
    serve_regWrite_idle (by revert r; decide) hb
  rw [hserve]
  exact ⟨regWord_write_same hr s v, fun q hq => regWord_write_other hq s v, rfl, rfl, rfl, rfl⟩

/-- Settles O17: a read-only register is no operand register, and the LUT is written by commands only. -/
theorem readOnlyPlacesIgnoreWrites : Obligations.ReadOnlyPlacesIgnoreWrites := by
  refine fun s v hb => ⟨fun r hr => ?_, fun n hn => ?_⟩
  · have hwrite : s.operands.write v r = s.operands := by fin_cases hr <;> rfl
    rw [serve_regWrite_idle (by fin_cases hr <;> decide) hb, hwrite]
  · exact serve_writeIdle (place_lut hn) nofun nofun hb

theorem Memory.get?_store_one {α : Type} (m : Memory α) (i : Nat) (x : α) :
    Memory.get? (Memory.store m i [x]) i = some x := by
  simpa using Memory.get?_store_inside m i [x] 0 (by simp)

theorem Memory.get?_store_one_other {α : Type} (m : Memory α) (x : α) {i j : Nat} (h : j ≠ i) :
    Memory.get? (Memory.store m i [x]) j = Memory.get? m j :=
  Memory.get?_store_outside m i [x] j (by simp; omega)

theorem serve_hmemRead_idle {i : Nat} (hi : i < 256) (hb : s.status.busy = false)
    (hv : Memory.get? s.hmem i = some v) : serve (.regRead 4 (0x400 + 4 * i)) s = s.answer (.data v) := by
  rw [serve_readIdle (place_hmem hi) hb, State.placeWord, State.wordAt, hv, Option.getD_some]

theorem serve_kmemRead_idle {n : Nat} (hn : n < 121) (hb : s.status.busy = false)
    (hv : Memory.get? s.kmem n = some v) : serve (.regRead 4 (0x800 + 4 * n)) s = s.answer (.data v) := by
  rw [serve_readIdle (place_kmem hn) hb, State.placeWord, State.wordAt, hv, Option.getD_some]

/-- Settles O24: a write while idle is a store of one entry, which the following read finds. -/
theorem histogramAndKernelReadBack : Obligations.HistogramAndKernelReadBack := by
  refine fun s v hb => ⟨fun i hi => ?_, fun n hn => ?_⟩
  · rw [serve_writeIdle (place_hmem hi) nofun nofun hb]
    refine ⟨Memory.get?_store_one .., fun j hj => Memory.get?_store_one_other _ _ hj, ?_⟩
    rintro t rfl
    exact serve_hmemRead_idle hi hb (Memory.get?_store_one ..)
  · rw [serve_writeIdle (place_kmem hn) nofun nofun hb]
    refine ⟨Memory.get?_store_one .., fun j hj => Memory.get?_store_one_other _ _ hj, ?_⟩
    rintro t rfl
    exact serve_kmemRead_idle hn hb (Memory.get?_store_one ..)

/-! ## STATUS, IRQ_EN and the interrupt output (R24, R25, R48, R280) -/

/-- Settles O18: a write to STATUS is an acknowledgement at any time, of the bits written as 1. -/
theorem statusWriteOneToClear : Obligations.StatusWriteOneToClear := by
  intro s v
  have hand (a b : Bool) : (a && !b) = if b then false else a := by cases b <;> simp
  have hserve : serve (.regWrite 4 0x008 v) s = (s.acknowledge v).answer .written :=
    serve_regWrite (place_offset .status) s v
  rw [hserve]
  simp only [State.answer, State.acknowledge, Status.cleared, hand]

/-- Bits 1 and 2 of a word, at their places (R25). -/
theorem IrqEn.word_ofWord (v : Word) : (IrqEn.ofWord v).word = BitVec.ofNat 32 (v.toNat / 2 % 4 * 2) := by
  rw [IrqEn.word, IrqEn.ofWord]
  congr 1
  simp only [BitVec.getLsbD, Nat.toNat_testBit]
  omega

/-- Settles O19: IRQ_EN is written at any time and keeps its two bits. -/
theorem interruptEnableWrite : Obligations.InterruptEnableWrite := by
  intro s v
  have hserve : serve (.regWrite 4 0x00C v) s =
      { s with irqEn := IrqEn.ofWord v, responses := .written :: s.responses } :=
    serve_regWrite (place_offset .irqEn) s v
  rw [hserve]
  exact ⟨rfl, IrqEn.word_ofWord v⟩

/-- The layout of STATUS (R24). -/
theorem Status.word_bits (f : Status) :
    f.word.getLsbD 0 = f.busy ∧ f.word.getLsbD 1 = f.done ∧ f.word.getLsbD 2 = f.err ∧ f.word.getLsbD 3 = f.busyWr ∧
    f.word.extractLsb' 8 3 = f.errCode ∧ f.word.extractLsb' 4 4 = 0 ∧ f.word.extractLsb' 11 21 = 0 := by
  obtain ⟨b, d, e, w, c⟩ := f
  decide +revert

/-- The layout of IRQ_EN (R25). -/
theorem IrqEn.word_bits (e : IrqEn) : e.word.getLsbD 1 = e.doneIe ∧ e.word.getLsbD 2 = e.errIe := by
  obtain ⟨d, e⟩ := e
  decide +revert

/-- Settles O20: the interrupt output by the fields is the one by the bits, which hold the fields. -/
theorem statusBitsAndInterruptOutput : Obligations.StatusBitsAndInterruptOutput := by
  intro s
  obtain ⟨hbusy, hdone, herr, hwr, hcode, hlow, hhigh⟩ := s.status.word_bits
  obtain ⟨hdoneIe, herrIe⟩ := s.irqEn.word_bits
  refine ⟨hbusy, hdone, herr, hwr, hcode, hlow, hhigh, ?_⟩
  simp only [State.regWord, hdone, herr, hdoneIe, herrIe, State.irq]

/-! ## Illegal accesses (R45, R71, R72) -/

theorem regAccess_eq_none {bytes off : Nat} (h : bytes ≠ 4 ∨ place off = none) : regAccess bytes off = none := by
  rw [regAccess]
  rcases h with h | h
  · exact if_neg h
  · rw [h, ite_self]

theorem bmemLegal_iff {addr n : Nat} :
    bmemLegal s addr n = true ↔ (n = 1 ∨ n = 2 ∨ n = 4) ∧ addr % n = 0 ∧ addr + n ≤ s.bmemBytes := by
  simp [bmemLegal, and_assoc, or_assoc]

/-- Settles O14: an illegal access reaches no place, or is no legal BMEM transaction. -/
theorem badAccessesHaveNoEffect : Obligations.BadAccessesHaveNoEffect := by
  refine ⟨fun s bytes off v h => ?_, fun s addr n v h => ?_⟩
  · simp [serve, regAccess_eq_none h, State.answer]
  · have hl : ¬bmemLegal s addr n = true := by rw [bmemLegal_iff]; omega
    simp [serve, hl, State.answer]

/-! ## Reset (R60, R301) -/

/-- Settles O9: at reset STATUS and the result registers are 0, and every memory is empty. -/
theorem resetMeetsTheInvariant : Obligations.ResetMeetsTheInvariant :=
  ⟨by decide, Status.reset_legal, .inl rfl, Memory.nil_wf _, Memory.nil_wf _, Memory.nil_wf _, Memory.nil_wf _⟩

/-- Settles O11: register by register; every memory is empty. -/
theorem registersAfterReset : Obligations.RegistersAfterReset :=
  ⟨fun r => by cases r <;> rfl, rfl, fun _ => ⟨rfl, rfl, rfl, rfl⟩⟩

/-! ## Commands (R46) -/

/-- Settles O28: an error sets STATUS only, and a commit leaves the host's registers untouched. -/
theorem commandsWriteNoOperand : Obligations.CommandsWriteNoOperand := by
  intro i s t h
  rcases exec_cases i s with ⟨e, hx⟩ | ⟨u, hx, hc⟩ <;> rw [hx] at h <;> cases h
  · exact ⟨rfl, rfl, rfl⟩
  · exact ⟨hc.untouched.operands, hc.untouched.irqEn, hc.untouched.cmd⟩

end Sys2Proof.Machine
end

section
/-! The results of a command depend on its inputs only: two states that agree on the inputs pass and fail the same checks,
read the same samples, and so end with the same results (R61, R105, R130). -/

namespace Sys2Proof.Machine

/-! ## What two states that agree on a source buffer have in common -/

/-- Two states hold the same source buffer: its descriptor, its bytes, and the draw number of the free values that a read
of an unwritten byte gives (R61, log 3). -/
structure SameSource (s u : State) : Prop where
  bmemBytes : s.bmemBytes = u.bmemBytes
  draws     : s.draws = u.draws
  src       : s.src = u.src
  srcLen    : s.operands.srcLen = u.operands.srcLen
  bytes     : ∀ a, s.src.addr ≤ a → a < s.src.addr + s.operands.srcLen.toNat →
    Memory.get? s.bmem a = Memory.get? u.bmem a

theorem SrcOk.width_pos {s : State} (ok : SrcOk s) : 1 ≤ s.src.w := ok.2.1.1

theorem SrcOk.height_pos {s : State} (ok : SrcOk s) : 1 ≤ s.src.h := ok.2.2.1.1

/-- The border modes answer an index inside the axis (R192). -/
theorem bidx_lt {n j : Nat} {mode : Border} {i : Int} (hn : 1 ≤ n) (h : bidx i n mode = some j) : j < n := by
  have h0 : 0 ≤ i % (2 * n) := Int.emod_nonneg _ (by omega)
  have h1 : i % (2 * n) < 2 * n := Int.emod_lt_of_pos _ (by omega)
  unfold bidx at h
  split at h
  · cases h; omega
  cases mode with
  | replicate => cases h; rw [clamp_eq_max_min _ (by omega)]; omega
  | zero => cases h
  | reflect => dsimp only at h; split at h <;> cases h <;> omega

/-- A padded plane reads the plane inside its bounds only (R192, R193). -/
theorem padded_congr {w h : Nat} {f g : Nat → Nat → Nat} (hw : 1 ≤ w) (hh : 1 ≤ h)
    (hfg : ∀ x < w, ∀ y < h, f x y = g x y) (mode : Border) : padded w h mode f = padded w h mode g := by
  funext x y
  unfold padded
  split
  · next xi yi hx hy => exact hfg xi (bidx_lt hw hx) yi (bidx_lt hh hy)
  · rfl

theorem raster_congr {w h c : Nat} {f g : Nat → Nat → Nat → Byte}
    (hfg : ∀ x < w, ∀ y < h, ∀ k < c, f x y k = g x y k) : raster w h c f = raster w h c g := by
  refine List.map_congr_left fun n hn => ?_
  have hlt : n < w * h * c := List.mem_range.mp hn
  have hc : 0 < c := Nat.pos_of_ne_zero fun h => by simp [h] at hlt
  have hw : 0 < w := Nat.pos_of_ne_zero fun h => by simp [h] at hlt
  have hpix : n / c < w * h := Nat.div_lt_of_lt_mul (by rwa [Nat.mul_comm])
  exact hfg _ (Nat.mod_lt _ hw) _ (Nat.div_lt_of_lt_mul hpix) _ (Nat.mod_lt _ hc)

section
variable {s u : State} (hs : SameSource s u)
include hs

theorem SameSource.checkSrc : checkSrc s = checkSrc u := by
  simp only [Machine.checkSrc, hs.bmemBytes, hs.src, hs.srcLen]

theorem SameSource.checkDst (hd : s.operands.dstAddr = u.operands.dstAddr) (ow oh oc : Nat) :
    checkDst s ow oh oc = checkDst u ow oh oc := by
  have ha : s.operands.srcAddr.toNat = u.operands.srcAddr.toNat := congrArg Buf.addr hs.src
  simp only [Machine.checkDst, hs.bmemBytes, hs.srcLen, ha, hd]

section
variable (hdst : s.operands.dstAddr = u.operands.dstAddr)
include hdst

theorem SameSource.checksPoint : checksPoint s = checksPoint u := by
  simp only [Machine.checksPoint, hs.checkSrc, hs.checkDst hdst]

theorem SameSource.checksGamma (hg : s.operands.gamma = u.operands.gamma) : checksGamma s = checksGamma u := by
  simp only [Machine.checksGamma, checkGamma, hs.checkSrc, hs.checkDst hdst, hg]

theorem SameSource.checksThresh (ht : s.operands.thresh = u.operands.thresh) : checksThresh s = checksThresh u := by
  simp only [Machine.checksThresh, checkThresh, hs.checkSrc, hs.checkDst hdst, ht]

theorem SameSource.checksResize
    (hnew : s.operands.newW = u.operands.newW ∧ s.operands.newH = u.operands.newH) : checksResize s = checksResize u := by
  simp only [Machine.checksResize, hs.checkSrc, hs.checkDst hdst, hnew]

variable (hb : s.operands.border = u.operands.border)
include hb

theorem SameSource.checksSobel : checksSobel s = checksSobel u := by
  simp only [Machine.checksSobel, checkBorder, hs.checkSrc, hs.checkDst hdst, hb]

variable (hk : s.operands.ksize = u.operands.ksize)
include hk

theorem SameSource.checksConv : checksConv s = checksConv u := by
  simp only [Machine.checksConv, checkBorder, checkKsize, hs.checkSrc, hs.checkDst hdst, hb, hk]

theorem SameSource.checksGauss (hsig : s.operands.sigma = u.operands.sigma) : checksGauss s = checksGauss u := by
  simp only [Machine.checksGauss, checkBorder, checkKsize, checkSigma, hs.checkSrc, hs.checkDst hdst, hb, hk, hsig]

theorem SameSource.checksUnsharp (hsig : s.operands.sigma = u.operands.sigma)
    (ha : s.operands.amount = u.operands.amount) : checksUnsharp s = checksUnsharp u := by
  simp only [Machine.checksUnsharp, checkBorder, checkKsize, checkSigma, checkAmount, hs.checkSrc, hs.checkDst hdst, hb,
    hk, hsig, ha]

end

variable (ok : SrcOk s)
include ok

theorem SameSource.sample (site : List Nat) {x y c : Nat} (hx : x < s.src.w) (hy : y < s.src.h) (hc : c < s.src.c) :
    s.sample s.src site x y c = u.sample s.src site x y c := by
  obtain ⟨-, -, -, hlen, -⟩ := ok
  have hin : (y * s.src.w + x) * s.src.c + c < s.operands.srcLen.toNat := by
    rw [hlen]; exact raster_index_lt hx hy hc
  have haddr : s.src.sampleAddr x y c = s.src.addr + ((y * s.src.w + x) * s.src.c + c) := Nat.add_assoc ..
  rw [State.sample, State.sample, State.byteAt, State.byteAt, hs.draws, haddr, hs.bytes _ (by omega) (by omega)]

theorem SameSource.grayAt (site : List Nat) {x y : Nat} (hx : x < s.src.w) (hy : y < s.src.h) :
    s.grayAt s.src site x y = u.grayAt s.src site x y := by
  unfold State.grayAt
  rcases ok.1 with hc | hc
  · rw [if_pos hc, if_pos hc]
    exact hs.sample ok _ hx hy (by omega)
  · rw [if_neg (by omega), if_neg (by omega), hs.sample ok _ hx hy (by omega), hs.sample ok _ hx hy (by omega),
      hs.sample ok _ hx hy (by omega)]

theorem SameSource.paddedSample (mode : Border) (site : List Nat) {c : Nat} (hc : c < s.src.c) :
    s.paddedSample s.src mode site c = u.paddedSample s.src mode site c :=
  padded_congr ok.width_pos ok.height_pos (fun _ hx _ hy => hs.sample ok site hx hy hc) mode

theorem SameSource.paddedGray (mode : Border) (site : List Nat) :
    s.paddedGray s.src mode site = u.paddedGray s.src mode site :=
  padded_congr ok.width_pos ok.height_pos (fun _ hx _ hy => hs.grayAt ok site hx hy) mode

theorem SameSource.correlate (mode : Border) (k : Nat) (kq : List Int) (x y : Nat) {c : Nat} (hc : c < s.src.c) :
    s.correlate s.src mode k kq x y c = u.correlate s.src mode k kq x y c := by
  simp only [State.correlate, hs.paddedSample ok mode _ hc]

theorem SameSource.boxSum (mode : Border) (k x y : Nat) {c : Nat} (hc : c < s.src.c) :
    s.boxSum s.src mode k x y c = u.boxSum s.src mode k x y c := by
  simp only [State.boxSum, hs.paddedSample ok mode _ hc]

theorem SameSource.blurred (mode : Border) (k : Nat) (coefs : List Nat) (x y : Nat) {c : Nat} (hc : c < s.src.c) :
    s.blurred ⟨s.src, mode, k⟩ coefs x y c = u.blurred ⟨s.src, mode, k⟩ coefs x y c :=
  congrArg quantise (hs.correlate ok mode k _ x y hc)

theorem SameSource.grayList : s.grayList s.src = u.grayList s.src := by
  refine List.map_congr_left fun n hn => ?_
  exact hs.grayAt ok _ (Nat.mod_lt _ ok.width_pos) (Nat.div_lt_of_lt_mul (List.mem_range.mp hn))

theorem SameSource.magnitudes (mode : Border) : s.magnitudes s.src mode = u.magnitudes s.src mode := by
  simp only [State.magnitudes, State.squaredMagnitude, State.gradient, hs.paddedGray ok]

end

theorem axisMap_lt {n : Nat} (hn : 1 ≤ n) (o m : Nat) : (axisMap o n m).i0 < n ∧ (axisMap o n m).i1 < n := by
  simp only [axisMap, clamp_eq_max_min _ (show (0 : Int) ≤ n - 1 by omega)]
  omega

theorem SameSource.bilinear {s u : State} (hs : SameSource s u) (ok : SrcOk s) (nw nh ox oy : Nat) {c : Nat}
    (hc : c < s.src.c) : s.bilinear s.src nw nh ox oy c = u.bilinear s.src nw nh ox oy c := by
  obtain ⟨hx0, hx1⟩ := axisMap_lt ok.width_pos ox nw
  obtain ⟨hy0, hy1⟩ := axisMap_lt ok.height_pos oy nh
  simp only [State.bilinear, hs.sample ok _ hx0 hy0 hc, hs.sample ok _ hx1 hy0 hc, hs.sample ok _ hx0 hy1 hc,
    hs.sample ok _ hx1 hy1 hc]

theorem nearest_lt {n m o : Nat} (hn : 1 ≤ n) (ho : o < m) : o * n / m < n :=
  Nat.div_lt_of_lt_mul (Nat.mul_lt_mul_of_pos_right ho hn)

/-! ## What they have in common where they agree on KMEM or HMEM -/

section
variable {s u : State} (hdraws : s.draws = u.draws)

theorem kernelUnwritten_congr {k : Nat} (hk : ∀ n < k * k, Memory.get? s.kmem n = Memory.get? u.kmem n) :
    s.kernelUnwritten k = u.kernelUnwritten k :=
  List.map_congr_left fun n hn => by rw [hk n (List.mem_range.mp hn)]

theorem histogramWritten_congr (hh : ∀ n < 256, Memory.get? s.hmem n = Memory.get? u.hmem n) :
    s.HistogramWritten ↔ u.HistogramWritten :=
  forall₂_congr fun n hn => by rw [hh n hn]

include hdraws

theorem kernel_congr {k : Nat} (hk : ∀ n < k * k, Memory.get? s.kmem n = Memory.get? u.kmem n) :
    s.kernel k = u.kernel k :=
  List.map_congr_left fun n hn => by rw [State.wordAt, State.wordAt, hdraws, hk n (List.mem_range.mp hn)]

theorem histogram_congr (hh : ∀ n < 256, Memory.get? s.hmem n = Memory.get? u.hmem n) :
    s.histogram = u.histogram :=
  List.map_congr_left fun n hn => by rw [State.wordAt, State.wordAt, hdraws, hh n (List.mem_range.mp hn)]

theorem checkHistogram_congr (hh : ∀ n < 256, Memory.get? s.hmem n = Memory.get? u.hmem n) :
    checkHistogram s = checkHistogram u := by
  simp only [checkHistogram, histogram_congr hdraws hh]

theorem otsuResult_congr (hh : ∀ n < 256, Memory.get? s.hmem n = Memory.get? u.hmem n) (l : List Nat) :
    s.otsuResult l = u.otsuResult l := by
  have hw := histogramWritten_congr hh
  unfold State.otsuResult
  rw [hdraws]
  exact if_congr hw rfl rfl

end

/-! ## The results of a command -/

/-- The results of command i, executed from s, are the same in t and v: STATUS, and after a success what it writes. -/
structure SameResults (i : Instr) (s t v : State) : Prop where
  status : t.status = v.status
  buffer : t.status.err = false → producesBuffer i = true → t.out = v.out ∧
    ∀ a, s.operands.dstAddr.toNat ≤ a → a < s.operands.dstAddr.toNat + outLen i s →
      Memory.get? t.bmem a = Memory.get? v.bmem a
  lut    : t.status.err = false → writesLut i = true → ∀ n < 256, Memory.get? t.lut n = Memory.get? v.lut n
  kmem   : t.status.err = false → writesKmem i = true → ∀ n < s.operands.ksize.toNat * s.operands.ksize.toNat,
    Memory.get? t.kmem n = Memory.get? v.kmem n
  hmem   : t.status.err = false → i = .hist → ∀ n < 256, Memory.get? t.hmem n = Memory.get? v.hmem n
  otsu   : t.status.err = false → i = .otsu → t.otsuT = v.otsuT

/-- Equal checks end in the same error, or commit the same operands in both states (R122, R128). -/
theorem SameResults.settle {α : Type} {i : Instr} {s u : State} {c d : Except ErrorKind α}
    {f g : α → State → State} (hcd : c = d) (hst : s.status = u.status)
    (hfg : ∀ a, c = .ok a → SameResults i s (f a s).succeed (g a u).succeed) :
    SameResults i s (settle c f s) (settle d g u) := by
  subst hcd
  cases c with
  | ok a => exact hfg a rfl
  | error e =>
    have herr : (s.takeError e).status.err ≠ false := by simp
    refine ⟨congrArg (Status.failed e) hst, ?_, ?_, ?_, ?_, ?_⟩ <;> exact fun h => absurd h herr

/-- For a command that writes a buffer and no memory beside it, STATUS and the buffer are all its results. -/
theorem SameResults.of_buffer {i : Instr} {s t v : State} (hp : producesBuffer i = true) (hl : writesLut i = false)
    (hk : writesKmem i = false) (hst : t.status = v.status)
    (hbuf : t.out = v.out ∧ ∀ a, s.operands.dstAddr.toNat ≤ a → a < s.operands.dstAddr.toNat + outLen i s →
      Memory.get? t.bmem a = Memory.get? v.bmem a) : SameResults i s t v where
  status := hst
  buffer _ _ := hbuf
  lut _ h := by rw [hl] at h; cases h
  kmem _ h := by rw [hk] at h; cases h
  hmem _ h := by rw [h] at hp; cases hp
  otsu _ h := by rw [h] at hp; cases hp

/-- The same values stored from the same index on read the same, whatever stood there. -/
theorem get?_store_congr {α : Type} (m n : Memory α) {base a : Nat} {vals : List α} (h1 : base ≤ a)
    (h2 : a < base + vals.length) :
    Memory.get? (Memory.store m base vals) a = Memory.get? (Memory.store n base vals) a := by
  rw [Memory.get?_store, Memory.get?_store, if_pos ⟨h1, h2⟩, if_pos ⟨h1, h2⟩]

theorem get?_table_congr {α : Type} (m m' : Memory α) (k : Nat) (f : Nat → α) :
    ∀ n < k, Memory.get? (Memory.store m 0 ((List.range k).map f)) n =
      Memory.get? (Memory.store m' 0 ((List.range k).map f)) n :=
  fun n hn => by rw [get?_table m k f hn, get?_table m' k f hn]

/-- The same buffer produced in two states: the same result registers and the same destination range (R79, R129). -/
theorem produce_congr {s u : State} {w h c : Nat} {f g : Nat → Nat → Nat → Byte}
    (hdst : s.operands.dstAddr = u.operands.dstAddr) (hfg : ∀ x < w, ∀ y < h, ∀ k < c, f x y k = g x y k) :
    (s.produce w h c f).out = (u.produce w h c g).out ∧
    ∀ a, s.operands.dstAddr.toNat ≤ a → a < s.operands.dstAddr.toNat + w * h * c →
      Memory.get? (s.produce w h c f).bmem a = Memory.get? (u.produce w h c g).bmem a := by
  refine ⟨rfl, fun a h1 h2 => ?_⟩
  rw [State.produce, State.produce, raster_congr hfg, hdst]
  exact get?_store_congr _ _ (hdst ▸ h1) (by rwa [raster_length, ← hdst])

/-! ## What the checks answer when they pass -/

theorem checksPoint_inv {s : State} {b : Buf} (h : checksPoint s = .ok b) : SrcOk s ∧ b = s.src := by
  simp only [checksPoint, bind_eq_ok, pure, Except.pure, Except.ok.injEq] at h
  obtain ⟨b, hb, -, -, rfl⟩ := h
  exact checkSrc_inv hb

theorem checksGamma_inv {s : State} {p : Buf × Nat} (h : checksGamma s = .ok p) : SrcOk s ∧ p.1 = s.src := by
  simp only [checksGamma, bind_eq_ok, pure, Except.pure, Except.ok.injEq] at h
  obtain ⟨b, hb, g, -, -, -, rfl⟩ := h
  exact checkSrc_inv hb

theorem checksThresh_inv {s : State} {p : Buf × Nat} (h : checksThresh s = .ok p) : SrcOk s ∧ p.1 = s.src := by
  simp only [checksThresh, bind_eq_ok, pure, Except.pure, Except.ok.injEq] at h
  obtain ⟨b, hb, t, -, -, -, rfl⟩ := h
  exact checkSrc_inv hb

theorem checksSobel_inv {s : State} {p : Buf × Border} (h : checksSobel s = .ok p) : SrcOk s ∧ p.1 = s.src := by
  simp only [checksSobel, bind_eq_ok, pure, Except.pure, Except.ok.injEq] at h
  obtain ⟨b, hb, m, -, -, -, rfl⟩ := h
  exact checkSrc_inv hb

/-- Source and kernel size are those the state's registers give (R190). -/
def ConvOperands.TakenFrom (s : State) (o : ConvOperands) : Prop := o = ⟨s.src, o.mode, s.operands.ksize.toNat⟩

theorem checksConv_inv {s : State} {o : ConvOperands} (h : checksConv s = .ok o) : SrcOk s ∧ o.TakenFrom s := by
  simp only [checksConv, bind_eq_ok, pure, Except.pure, Except.ok.injEq] at h
  obtain ⟨b, hb, m, -, k, hk, -, -, rfl⟩ := h
  obtain ⟨hs, rfl⟩ := checkSrc_inv hb
  obtain ⟨-, rfl⟩ := checkKsize_inv hk
  exact ⟨hs, rfl⟩

theorem checksGauss_inv {s : State} {p : ConvOperands × Nat} (h : checksGauss s = .ok p) : SrcOk s ∧ p.1.TakenFrom s := by
  simp only [checksGauss, bind_eq_ok, pure, Except.pure, Except.ok.injEq] at h
  obtain ⟨b, hb, m, -, k, hk, sc, -, -, -, rfl⟩ := h
  obtain ⟨hs, rfl⟩ := checkSrc_inv hb
  obtain ⟨-, rfl⟩ := checkKsize_inv hk
  exact ⟨hs, rfl⟩

theorem checksUnsharp_inv {s : State} {p : ConvOperands × Nat × Nat} (h : checksUnsharp s = .ok p) :
    SrcOk s ∧ p.1.TakenFrom s := by
  simp only [checksUnsharp, bind_eq_ok, pure, Except.pure, Except.ok.injEq] at h
  obtain ⟨b, hb, m, -, k, hk, sc, -, ac, -, -, -, rfl⟩ := h
  obtain ⟨hs, rfl⟩ := checkSrc_inv hb
  obtain ⟨-, rfl⟩ := checkKsize_inv hk
  exact ⟨hs, rfl⟩

theorem checksResize_inv {s : State} {p : Buf × Nat × Nat} (h : checksResize s = .ok p) :
    SrcOk s ∧ p = (s.src, s.operands.newW.toNat, s.operands.newH.toNat) := by
  simp only [checksResize, bind_eq_ok, pure, Except.pure, Except.ok.injEq] at h
  obtain ⟨b, hb, nw, hw, nh, hh, -, -, rfl⟩ := h
  obtain ⟨hs, rfl⟩ := checkSrc_inv hb
  obtain ⟨-, rfl⟩ := checkNewDim_inv hw
  obtain ⟨-, rfl⟩ := checkNewDim_inv hh
  exact ⟨hs, rfl⟩

/-! ## The commits, command by command -/

section
variable {s u : State} (hs : SameSource s u) (hst : s.status = u.status)
include hs hst

theorem SameSource.commitHist (ok : SrcOk s) :
    SameResults .hist s (s.writeHmem fun i => (s.grayList s.src).count i).succeed
      (u.writeHmem fun i => (u.grayList s.src).count i).succeed where
  status := congrArg Status.succeeded hst
  buffer := nofun
  lut := nofun
  kmem := nofun
  hmem _ _ := by rw [hs.grayList ok]; exact get?_table_congr s.hmem u.hmem 256 _
  otsu := nofun

variable (hdst : s.operands.dstAddr = u.operands.dstAddr)
include hdst

theorem SameSource.commitPoint {i : Instr} (hi : i ∈ [Instr.neg, .log, .gamma]) (f : Nat → Nat) (ok : SrcOk s) :
    SameResults i s (commitPoint f s.src s).succeed (commitPoint f s.src u).succeed := by
  have hbuf := produce_congr (w := s.src.w) (h := s.src.h) hdst fun x hx y hy c hc =>
    congrArg (fun v => BitVec.ofNat 8 (f v)) (hs.sample ok [x, y, c] hx hy hc)
  have hlut := get?_table_congr s.lut u.lut 256 fun v => BitVec.ofNat 8 (f v)
  have hstatus := congrArg Status.succeeded hst
  fin_cases hi <;> exact ⟨hstatus, fun _ _ => hbuf, fun _ _ => hlut, nofun, nofun, nofun⟩

theorem SameSource.commitGrayPoint (f : Nat → Nat) (ok : SrcOk s) :
    SameResults .thresh s (commitGrayPoint f s.src s).succeed (commitGrayPoint f s.src u).succeed where
  status := congrArg Status.succeeded hst
  buffer _ _ := produce_congr hdst fun x hx y hy _ _ => by rw [hs.grayAt ok _ hx hy]
  lut _ _ := get?_table_congr s.lut u.lut 256 _
  kmem := nofun
  hmem := nofun
  otsu := nofun

theorem SameSource.commitConv {o : ConvOperands} (ok : SrcOk s) (ho : o.TakenFrom s)
    (hk : ∀ n < s.operands.ksize.toNat * s.operands.ksize.toNat, Memory.get? s.kmem n = Memory.get? u.kmem n) :
    SameResults .conv s (commitConv o s).succeed (commitConv o u).succeed := by
  rw [ho, Machine.commitConv, Machine.commitConv, kernel_congr hs.draws hk, kernelUnwritten_congr hk]
  exact .of_buffer rfl rfl rfl (congrArg Status.succeeded hst) <| produce_congr hdst fun x _ y _ c hc => by
    simp only [State.convSample, hs.correlate ok _ _ _ x y hc, hs.draws]

theorem SameSource.commitBox {o : ConvOperands} (ok : SrcOk s) (ho : o.TakenFrom s) :
    SameResults .box s (commitBox o s).succeed (commitBox o u).succeed := by
  rw [ho]
  exact .of_buffer rfl rfl rfl (congrArg Status.succeeded hst) <| produce_congr hdst fun x _ y _ c hc => by
    rw [hs.boxSum ok _ _ x y hc]

theorem SameSource.commitGauss {o : ConvOperands} (coefs : List Nat) (ok : SrcOk s) (ho : o.TakenFrom s) :
    SameResults .gauss s (commitGauss o coefs s).succeed (commitGauss o coefs u).succeed := by
  rw [ho]
  exact {
    status := congrArg Status.succeeded hst
    buffer := fun _ _ => produce_congr hdst fun x _ y _ c hc => by rw [hs.blurred ok _ _ _ x y hc]
    lut := nofun
    kmem := fun _ _ => get?_table_congr s.kmem u.kmem _ _
    hmem := nofun
    otsu := nofun }

theorem SameSource.commitUnsharp {o : ConvOperands} (coefs : List Nat) (ac : Nat) (ok : SrcOk s) (ho : o.TakenFrom s) :
    SameResults .unsharp s (commitUnsharp o coefs ac s).succeed (commitUnsharp o coefs ac u).succeed := by
  rw [ho]
  exact {
    status := congrArg Status.succeeded hst
    buffer := fun _ _ => produce_congr hdst fun x hx y hy c hc => by
      rw [hs.blurred ok _ _ _ x y hc, hs.sample ok _ hx hy hc]
    lut := nofun
    kmem := fun _ _ => get?_table_congr s.kmem u.kmem _ _
    hmem := nofun
    otsu := nofun }

theorem SameSource.commitSobel (mode : Border) (ok : SrcOk s) :
    SameResults .sobel s (commitSobel s.src mode s).succeed (commitSobel s.src mode u).succeed :=
  .of_buffer rfl rfl rfl (congrArg Status.succeeded hst) <| produce_congr hdst fun x _ y _ _ _ => by
    rw [hs.magnitudes ok]

theorem SameSource.commitResizeNn (ok : SrcOk s) :
    SameResults .resizeNn s (commitResizeNn s.src s.operands.newW.toNat s.operands.newH.toNat s).succeed
      (commitResizeNn s.src s.operands.newW.toNat s.operands.newH.toNat u).succeed :=
  .of_buffer rfl rfl rfl (congrArg Status.succeeded hst) <| produce_congr hdst fun x hx y hy c hc => by
    rw [hs.sample ok _ (nearest_lt ok.width_pos hx) (nearest_lt ok.height_pos hy) hc]

theorem SameSource.commitResizeBl (ok : SrcOk s) :
    SameResults .resizeBl s (commitResizeBl s.src s.operands.newW.toNat s.operands.newH.toNat s).succeed
      (commitResizeBl s.src s.operands.newW.toNat s.operands.newH.toNat u).succeed :=
  .of_buffer rfl rfl rfl (congrArg Status.succeeded hst) <| produce_congr hdst fun x _ y _ c hc => by
    rw [hs.bilinear ok _ _ x y hc]

end

/-- One threshold written in both states. -/
theorem writeOtsu_sameResults {s u : State} (hst : s.status = u.status) (n : Nat) :
    SameResults .otsu s (s.writeOtsu n).succeed (u.writeOtsu n).succeed where
  status := congrArg Status.succeeded hst
  buffer := nofun
  lut := nofun
  kmem := nofun
  hmem := nofun
  otsu _ _ := rfl

/-! ## The commands -/

/-- Two executions of a command from states that agree on its inputs give the same results (R61, R130). -/
theorem AgreeOnInputs.exec {i : Instr} {s u : State} (h : AgreeOnInputs i s u) :
    ∃ t v, exec i s = .next t ∧ exec i u = .next v ∧ SameResults i s t v := by
  obtain ⟨hsize, hdraws, hst, hsource, hdst, hborder, hksize, hsigma, hamount, hgamma, hthresh, hnew, hhmem, hkmem⟩ := h
  have hs (hr : readsSource i = true) : SameSource s u :=
    let ⟨hsrc, hlen, hbytes⟩ := hsource hr
    ⟨hsize, hdraws, hsrc, hlen, hbytes⟩
  cases i with
  | neg | log =>
    refine ⟨_, _, rfl, rfl, .settle ((hs rfl).checksPoint (hdst rfl)) hst fun b hb => ?_⟩
    obtain ⟨ok, rfl⟩ := checksPoint_inv hb
    exact (hs rfl).commitPoint hst (hdst rfl) (by simp) _ ok
  | gamma =>
    refine ⟨_, _, rfl, rfl, .settle ((hs rfl).checksGamma (hdst rfl) (hgamma rfl)) hst fun p hp => ?_⟩
    obtain ⟨ok, hb⟩ := checksGamma_inv hp
    rw [hb]
    exact (hs rfl).commitPoint hst (hdst rfl) (by simp) _ ok
  | thresh =>
    refine ⟨_, _, rfl, rfl, .settle ((hs rfl).checksThresh (hdst rfl) (hthresh rfl)) hst fun p hp => ?_⟩
    obtain ⟨ok, hb⟩ := checksThresh_inv hp
    rw [hb]
    exact (hs rfl).commitGrayPoint hst (hdst rfl) _ ok
  | hist =>
    refine ⟨_, _, rfl, rfl, .settle (hs rfl).checkSrc hst fun b hb => ?_⟩
    obtain ⟨ok, rfl⟩ := checkSrc_inv hb
    exact (hs rfl).commitHist hst ok
  | otsu =>
    refine ⟨_, _, rfl, rfl, .settle (checkHistogram_congr hdraws (hhmem rfl)) hst fun l _ => ?_⟩
    rw [otsuResult_congr hdraws (hhmem rfl)]
    exact writeOtsu_sameResults hst _
  | conv =>
    have hchecks := (hs rfl).checksConv (hdst rfl) (hborder (by simp)) (hksize (by simp))
    refine ⟨_, _, rfl, rfl, .settle hchecks hst fun o ho => ?_⟩
    obtain ⟨ok, ho⟩ := checksConv_inv ho
    exact (hs rfl).commitConv hst (hdst rfl) ok ho (hkmem rfl)
  | box =>
    have hchecks := (hs rfl).checksConv (hdst rfl) (hborder (by simp)) (hksize (by simp))
    refine ⟨_, _, rfl, rfl, .settle hchecks hst fun o ho => ?_⟩
    obtain ⟨ok, ho⟩ := checksConv_inv ho
    exact (hs rfl).commitBox hst (hdst rfl) ok ho
  | gauss =>
    have hchecks := (hs rfl).checksGauss (hdst rfl) (hborder (by simp)) (hksize (by simp)) (hsigma (by simp))
    refine ⟨_, _, rfl, rfl, .settle hchecks hst fun p hp => ?_⟩
    obtain ⟨ok, ho⟩ := checksGauss_inv hp
    exact (hs rfl).commitGauss hst (hdst rfl) _ ok ho
  | unsharp =>
    have hchecks := (hs rfl).checksUnsharp (hdst rfl) (hborder (by simp)) (hksize (by simp)) (hsigma (by simp))
      (hamount rfl)
    refine ⟨_, _, rfl, rfl, .settle hchecks hst fun p hp => ?_⟩
    obtain ⟨ok, ho⟩ := checksUnsharp_inv hp
    exact (hs rfl).commitUnsharp hst (hdst rfl) _ _ ok ho
  | sobel =>
    refine ⟨_, _, rfl, rfl, .settle ((hs rfl).checksSobel (hdst rfl) (hborder (by simp))) hst fun p hp => ?_⟩
    obtain ⟨ok, hb⟩ := checksSobel_inv hp
    rw [hb]
    exact (hs rfl).commitSobel hst (hdst rfl) _ ok
  | resizeNn =>
    refine ⟨_, _, rfl, rfl, .settle ((hs rfl).checksResize (hdst rfl) (hnew (by simp))) hst fun p hp => ?_⟩
    obtain ⟨ok, rfl⟩ := checksResize_inv hp
    exact (hs rfl).commitResizeNn hst (hdst rfl) ok
  | resizeBl =>
    refine ⟨_, _, rfl, rfl, .settle ((hs rfl).checksResize (hdst rfl) (hnew (by simp))) hst fun p hp => ?_⟩
    obtain ⟨ok, rfl⟩ := checksResize_inv hp
    exact (hs rfl).commitResizeBl hst (hdst rfl) ok

/-- Settles O32: both executions go through the same checks to the same results. -/
theorem commandsDependOnlyOnTheirInputs : Obligations.CommandsDependOnlyOnTheirInputs := by
  intro i s u t v h ht hv
  obtain ⟨t', v', ht', hv', hsame⟩ := h.exec
  cases ht'.symm.trans ht
  cases hv'.symm.trans hv
  exact ⟨hsame.status, hsame.buffer, hsame.lut, hsame.kmem, hsame.hmem, hsame.otsu⟩

end Sys2Proof.Machine
end

section
/-! What the host reads, writes and leaves: the registers and the windows, BMEM little-endian, and the command in flight,
which no transaction but reset disturbs (R23 to R57, R72 to R74, R82, R121, R304, R305). -/

namespace Sys2Proof.Machine

variable {s : State}

/-! ## Register reads (R76, R305) -/

/-- A 32-bit read at a mapped offset answers for the place it reaches, and changes nothing (R71, R305). -/
theorem serve_regRead {off : Nat} {p : Place} (h : place off = some p) (s : State) :
    serve (.regRead 4 off) s = s.answer (.data (s.readPlace p)) := by
  simp [serve, regAccess, h]

/-- Of the registers only the results are unspecified while the engine is busy (R305). -/
theorem isResult_eq_false {r : Reg} (h : r ∉ [Reg.outW, .outH, .outC, .outLen, .otsuT]) :
    (Place.reg r).isResult = false := by
  revert h; cases r <;> decide

/-- A register that is no result reads its value at any time, every register does while idle (R305). -/
theorem readPlace_reg {r : Reg} (h : r ∉ [Reg.outW, .outH, .outC, .outLen, .otsuT] ∨ s.status.busy = false) :
    s.readPlace (.reg r) = s.regWord r := by
  have hspecified : (s.status.busy && (Place.reg r).isResult) = false := by
    rcases h with h | h
    · rw [isResult_eq_false h, Bool.and_false]
    · rw [h, Bool.false_and]
  rw [State.readPlace, hspecified]
  rfl

theorem serve_lutRead_idle {v : Nat} {b : Byte} (hv : v < 256) (hb : s.status.busy = false)
    (hl : Memory.get? s.lut v = some b) : serve (.regRead 4 (0xC00 + 4 * v)) s = s.answer (.data (b.setWidth 32)) := by
  rw [serve_readIdle (place_lut hv) hb, State.placeWord, State.byteAt, hl, Option.getD_some]

/-- Settles O23: every read at a mapped offset is an answer; the value is that of the register or the written entry. -/
theorem registerReads : Obligations.RegisterReads := by
  refine ⟨fun s r h => ?_, fun s => ?_, fun s hb => ⟨fun i hi v hv => ?_, fun n hn v hv => ?_, fun v hv b hl => ?_⟩,
    fun s off h => ?_⟩
  · rw [serve_regRead (place_offset r), readPlace_reg h, State.answer]
  · exact ⟨rfl, rfl, rfl, rfl, rfl, rfl, rfl, rfl, rfl, rfl, rfl, rfl, rfl, rfl, rfl, rfl, rfl, rfl, rfl, rfl, rfl⟩
  · exact serve_hmemRead_idle hi hb hv
  · exact serve_kmemRead_idle hn hb hv
  · exact serve_lutRead_idle hv hb hl
  · obtain ⟨p, hp⟩ := Option.ne_none_iff_exists'.mp h
    exact ⟨_, serve_regRead hp s⟩

/-! ## The BMEM port (R72 to R74) and a sample's address (R78) -/

theorem bytesOf_getElem {n i : Nat} (v : Word) (h : i < (bytesOf n v).length) :
    (bytesOf n v)[i] = v.extractLsb' (8 * i) 8 := by
  apply BitVec.eq_of_toNat_eq
  simp [bytesOf, Nat.shiftRight_eq_div_pow]

/-- A byte of BMEM after a host store is the byte of the value at its place, the least significant first (R73). -/
theorem get?_memWrite {addr n i : Nat} (v : Word) (h : i < n) :
    Memory.get? (s.memWrite addr n v).bmem (addr + i) = some (v.extractLsb' (8 * i) 8) := by
  have hi : i < (bytesOf n v).length := by rwa [bytesOf_length]
  rw [State.memWrite, Memory.get?_store_inside _ _ _ _ hi, bytesOf_getElem v hi]

/-- The base-256 digits of a number, each at its weight, add up to its residue (R73). -/
theorem sum_bytes (v n : Nat) :
    ((List.range n).map fun i => v / 2 ^ (8 * i) % 256 * 2 ^ (8 * i)).sum = v % 2 ^ (8 * n) := by
  induction n with
  | zero => simp [Nat.mod_one]
  | succ n ih =>
    rw [List.range_succ, List.map_append, List.sum_append, ih, Nat.mul_succ, Nat.pow_add, Nat.mod_mul]
    simp [Nat.mul_comm]

/-- A read of bytes that hold those of v is v's residue (R74). -/
theorem memRead_of_bytes {addr n : Nat} {v : Word}
    (h : ∀ i < n, Memory.get? s.bmem (addr + i) = some (v.extractLsb' (8 * i) 8)) :
    s.memRead addr n = v.toNat % 2 ^ (8 * n) := by
  rw [← sum_bytes, State.memRead]
  refine congrArg List.sum (List.map_congr_left fun i hi => ?_)
  rw [State.byteAt, h i (List.mem_range.mp hi), Option.getD_some]
  simp [Nat.shiftRight_eq_div_pow]

theorem serve_bmemWrite_idle {addr n : Nat} (hl : bmemLegal s addr n = true) (hb : s.status.busy = false) (v : Word) :
    serve (.bmemWrite addr n v) s = (s.memWrite addr n v).answer .written := by
  simp [serve, hl, hb]

/-- While idle a legal read of bytes that hold those of v answers v's residue (R72, R74). -/
theorem serve_bmemRead_idle {addr n : Nat} {v : Word} (hl : bmemLegal s addr n = true) (hb : s.status.busy = false)
    (h : ∀ i < n, Memory.get? s.bmem (addr + i) = some (v.extractLsb' (8 * i) 8)) :
    serve (.bmemRead addr n) s = s.answer (.data (BitVec.ofNat 32 (v.toNat % 2 ^ (8 * n)))) := by
  simp [serve, hl, State.bmemWord, hb, memRead_of_bytes h]

/-- Settles O25: a legal write while idle is a store of the value's bytes, whose sum by place a read gives back. -/
theorem bmemWriteReadsBackLittleEndian : Obligations.BmemWriteReadsBackLittleEndian := by
  intro s t addr n v hb hn hal hin ht
  have hl : bmemLegal s addr n = true := bmemLegal_iff.mpr ⟨hn, hal, hin⟩
  rw [serve_bmemWrite_idle hl hb] at ht
  subst ht
  have hbytes (i : Nat) (hi : i < n) := get?_memWrite (s := s) (addr := addr) v hi
  exact ⟨hbytes, fun a ha => Memory.get?_store_outside _ _ _ _ (by rwa [bytesOf_length]), rfl, rfl,
    serve_bmemRead_idle hl hb hbytes⟩

/-- Settles O34: the address is that of R78, and a written byte is no free value. -/
theorem sampleAddressing : Obligations.SampleAddressing := by
  intro s site x y c v h
  have haddr : s.src.sampleAddr x y c = s.operands.srcAddr.toNat +
      (y * s.operands.srcW.toNat + x) * s.operands.srcC.toNat + c := rfl
  rw [State.sample, State.byteAt, haddr, h, Option.getD_some]

/-! ## The command in flight (R82, R121, R304) -/

/-- A command is in flight, with STATUS as acceptance left it but for BUSYWR (R120). -/
structure InFlight (s : State) : Prop where
  busy    : s.status.busy = true
  done    : s.status.done = false
  err     : s.status.err = false
  errCode : s.status.errCode = 0

/-- All that a command computes from and writes is in t as in s: between them only BUSYWR, IRQ_EN and the environment may
differ (R121). -/
structure Undisturbed (s t : State) : Prop where
  operands  : t.operands = s.operands
  cmd       : t.cmd = s.cmd
  out       : t.out = s.out
  otsuT     : t.otsuT = s.otsuT
  hmem      : t.hmem = s.hmem
  kmem      : t.kmem = s.kmem
  lut       : t.lut = s.lut
  bmem      : t.bmem = s.bmem
  bmemBytes : t.bmemBytes = s.bmemBytes
  status    : ∃ b, t.status = { s.status with busyWr := b }

theorem Undisturbed.refl (s : State) : Undisturbed s s :=
  ⟨rfl, rfl, rfl, rfl, rfl, rfl, rfl, rfl, rfl, s.status.busyWr, rfl⟩

section
variable {t : State} (h : Undisturbed s t)
include h

theorem Undisturbed.inFlight (hf : InFlight s) : InFlight t := by
  obtain ⟨b, hst⟩ := h.status
  constructor <;> rw [hst]
  exacts [hf.busy, hf.done, hf.err, hf.errCode]

theorem Undisturbed.answer (a : Answer) : Undisturbed s (t.answer a) := { h with }

theorem Undisturbed.turn : Undisturbed s t.turn := { h with }

theorem Undisturbed.withInbox (inbox : List HostTx) : Undisturbed s { t with inbox := inbox } := { h with }

theorem Undisturbed.withIrqEn (e : IrqEn) : Undisturbed s { t with irqEn := e } := { h with }

theorem Undisturbed.drop : Undisturbed s t.drop :=
  have ⟨_, hst⟩ := h.status
  { h with status := ⟨true, by rw [State.drop, Status.dropped, hst]⟩ }

/-- With DONE, ERR and ERRCODE 0 an acknowledgement has only BUSYWR to clear (R24). -/
theorem Undisturbed.acknowledge (hf : InFlight t) (v : Word) : Undisturbed s (t.acknowledge v) := by
  obtain ⟨b, hst⟩ := h.status
  have hclear : t.status.cleared v = { t.status with busyWr := t.status.busyWr && !v.getLsbD 3 } := by
    simp [Status.cleared, hf.done, hf.err, hf.errCode]
  exact { h with status := ⟨_, by rw [State.acknowledge, hclear, hst]⟩ }

theorem Undisturbed.writePlace (hf : InFlight t) (v : Word) (p : Place) : Undisturbed s (t.writePlace v p) := by
  rcases writePlace_cases t v p with ⟨-, hw⟩ | ⟨-, hw⟩ | ⟨-, -, -, hw⟩ | ⟨-, -, hidle, -⟩
  · rw [hw]; exact h.acknowledge hf v
  · rw [hw]; exact h.withIrqEn _
  · rw [hw]; exact h.drop
  · rw [hf.busy] at hidle; cases hidle

/-- No transaction but reset disturbs the command in flight (R121, R304). -/
theorem Undisturbed.serve (hf : InFlight t) {tx : HostTx} (htx : tx ≠ .rst) : Undisturbed s (serve tx t) := by
  cases tx with
  | regRead bytes off => simp only [Machine.serve]; split <;> exact h.answer _
  | regWrite bytes off v =>
    simp only [Machine.serve]
    split
    · exact (h.writePlace hf v _).answer _
    · exact h.answer _
  | bmemRead addr n => simp only [Machine.serve]; split <;> exact h.answer _
  | bmemWrite addr n v =>
    simp only [Machine.serve, hf.busy, if_true]
    split
    · exact h.drop.answer _
    · exact h.answer _
  | wait =>
    simp only [Machine.serve, hf.busy, if_true]
    exact (h.answer _).withInbox _
  | rst => exact absurd rfl htx

end

/-- Settles O22: what a transaction does while busy, transaction by transaction. -/
theorem hostCannotDisturbACommand : Obligations.HostCannotDisturbACommand := by
  intro s tx hbusy hdone herr hcode htx
  have h := (Undisturbed.refl s).serve ⟨hbusy, hdone, herr, hcode⟩ htx
  exact ⟨h.operands, h.cmd, h.out, h.otsuT, h.hmem, h.kmem, h.lut, h.bmem, h.bmemBytes, h.status⟩

end Sys2Proof.Machine
end

section
/-! What a command leaves unchanged: the registers of the host, the memories it does not write, and of those it writes
every entry but its results (R46, R79, R88, R89). -/

namespace Sys2Proof.Machine

variable {i : Instr} {s t : State}

/-- What a command that has ended did: it took an error, or it committed (R121, R128). -/
theorem exec_inv (h : exec i s = .next t) : (∃ e, t = s.takeError e) ∨ Committed i s t := by
  rcases exec_cases i s with ⟨e, hx⟩ | ⟨u, hx, hc⟩ <;> cases hx.symm.trans h
  · exact .inl ⟨e, rfl⟩
  · exact .inr hc

/-- A commit writes the destination range of BMEM and no other byte (R79). -/
theorem Committed.bmem_outside (hc : Committed i s t) {a : Nat}
    (ha : producesBuffer i = true → a < s.operands.dstAddr.toNat ∨ s.operands.dstAddr.toNat + outLen i s ≤ a) :
    Memory.get? t.bmem a = Memory.get? s.bmem a := by
  cases hp : producesBuffer i with
  | false => rw [(hc.noBuffer hp).1]
  | true =>
    obtain ⟨-, -, -, f, hm, -⟩ := hc.buffer hp
    rw [hm]
    exact Memory.get?_store_outside _ _ _ _ (by rw [raster_length]; exact ha hp)

/-- A commit writes the first k*k entries of KMEM and no other (R200, R201). -/
theorem Committed.kmem_outside (hc : Committed i s t) {n : Nat}
    (hn : s.operands.ksize.toNat * s.operands.ksize.toNat ≤ n) : Memory.get? t.kmem n = Memory.get? s.kmem n := by
  cases hw : writesKmem i with
  | false => rw [hc.noKmem hw]
  | true =>
    obtain ⟨-, vals, hl, hm⟩ := hc.kmem hw
    rw [hm]
    exact Memory.get?_store_outside _ _ _ _ (by omega)

/-- Settles O29: all that a commit writes of BMEM is the destination range, which shares no byte with the source range. -/
theorem sourceRangeIsNeverWritten : Obligations.SourceRangeIsNeverWritten := by
  intro i s t a _ h h1 h2
  rcases exec_inv h with ⟨e, rfl⟩ | hc
  · rfl
  · refine hc.bmem_outside fun hp => ?_
    obtain ⟨⟨-, hdisjoint⟩, -⟩ := hc.buffer hp
    rw [outLen]
    omega

/-- What every command leaves of the registers: the host's, BUSYWR, BMEM_BYTES, and either the error bits or DONE. -/
theorem exec_registers (h : exec i s = .next t) :
    t.operands = s.operands ∧ t.irqEn = s.irqEn ∧ t.cmd = s.cmd ∧ t.status.busyWr = s.status.busyWr ∧
    (t.status.err = s.status.err ∧ t.status.errCode = s.status.errCode ∨ t.status.done = s.status.done) ∧
    t.bmemBytes = s.bmemBytes := by
  rcases exec_inv h with ⟨e, rfl⟩ | hc
  · exact ⟨rfl, rfl, rfl, rfl, .inr rfl, rfl⟩
  · obtain ⟨hoperands, hstatus, hirqEn, hcmd, hbytes, -⟩ := hc.untouched
    rw [hstatus]
    exact ⟨hoperands, hirqEn, hcmd, rfl, .inl ⟨rfl, rfl⟩, hbytes⟩

/-- Settles O30: an error writes no memory, a commit the destination range and the entries of its tables. -/
theorem bufferCommandFrame : Obligations.BufferCommandFrame := by
  intro i s t hp h
  have hregs := exec_registers h
  rcases exec_inv h with ⟨e, rfl⟩ | hc
  · exact ⟨fun _ _ => rfl, rfl, rfl, fun _ => rfl, fun _ => rfl, fun _ _ => rfl, hregs⟩
  · have hhist : i ≠ .hist := by rintro rfl; cases hp
    have hotsu : i ≠ .otsu := by rintro rfl; cases hp
    exact ⟨fun a ha => hc.bmem_outside fun _ => ha, hc.noHmem hhist, hc.noOtsu hotsu, hc.noLut, hc.noKmem,
      fun n hn => hc.kmem_outside hn, hregs⟩

/-- A command that produces no buffer writes no table beside HMEM (R105, R132). -/
theorem writes_no_table_of_no_buffer (h : producesBuffer i = false) : writesLut i = false ∧ writesKmem i = false := by
  cases i with
  | hist | otsu => exact ⟨rfl, rfl⟩
  | _ => cases h

/-- Settles O31: HIST writes HMEM only, OTSU writes OTSU_T only. -/
theorem histogramCommandFrame : Obligations.HistogramCommandFrame := by
  intro i s t hp h
  have hregs := exec_registers h
  rcases exec_inv h with ⟨e, rfl⟩ | hc
  · exact ⟨fun _ => rfl, rfl, rfl, rfl, fun _ => rfl, fun _ => rfl, hregs⟩
  · obtain ⟨hbmem, hout⟩ := hc.noBuffer hp
    obtain ⟨hlut, hkmem⟩ := writes_no_table_of_no_buffer hp
    exact ⟨fun a => by rw [hbmem], hout, hc.noLut hlut, hc.noKmem hkmem, fun hi => hc.noOtsu (by rw [hi]; decide),
      fun hi => hc.noHmem (by rw [hi]; decide), hregs⟩

end Sys2Proof.Machine
end

section
/-! The result of a command does not depend on when the engine completes it, nor on what the host does meanwhile: a command
reads and writes nothing of the host's side, and no transaction but reset touches anything else (R82, R121, R309). -/

namespace Sys2Proof.Machine

/-! ## A command on a state with another host's side -/

/-- s with the host's side of e: BUSYWR, IRQ_EN, and the environment but for the draw number. -/
def State.withHostSide (s e : State) : State :=
  { s with
    status := { s.status with busyWr := e.status.busyWr }
    irqEn := e.irqEn, inbox := e.inbox, schedule := e.schedule, responses := e.responses }

/-- Completion commutes with exchanging the host's side, where the commit does. -/
theorem settle_withHostSide {α : Type} {c : Except ErrorKind α} {f g : α → State → State} (s e : State)
    (hfg : ∀ a, f a (s.withHostSide e) = (g a s).withHostSide e) :
    settle c f (s.withHostSide e) = (settle c g s).withHostSide e := by
  cases c with
  | ok a => exact congrArg State.succeed (hfg a)
  | error k => rfl

/-- No command reads or writes the host's side: checks and commits read the other fields only (R105, R132). -/
theorem exec_withHostSide (i : Instr) (s e : State) :
    ∃ t, exec i s = .next t ∧ exec i (s.withHostSide e) = .next (t.withHostSide e) := by
  cases i <;> exact ⟨_, rfl, congrArg Host.Outcome.next (settle_withHostSide s e fun _ => rfl)⟩

theorem Undisturbed.eq_withHostSide {s t : State} (h : Undisturbed s t) :
    t = { s with draws := t.draws }.withHostSide t := by
  obtain ⟨hoperands, hcmd, hout, hotsuT, hhmem, hkmem, hlut, hbmem, hbmemBytes, b, hstatus⟩ := h
  cases t
  subst hoperands hcmd hout hotsuT hhmem hkmem hlut hbmem hbmemBytes hstatus
  rfl

/-- A command in flight that nothing has disturbed runs as on the state as it stood, with the draw number of the step that
completes it (log 3). -/
theorem Undisturbed.exec_eq {s t : State} (h : Undisturbed s t) (i : Instr) :
    ∃ u, exec i { s with draws := t.draws } = .next u ∧ exec i t = .next (u.withHostSide t) := by
  have hexec := exec_withHostSide i { s with draws := t.draws } t
  rwa [← h.eq_withHostSide] at hexec

/-- A command that has ended is no longer in flight (R127, R275). -/
theorem exec_not_busy {i : Instr} {s t : State} (h : exec i s = .next t) : t.status.busy = false := by
  rcases exec_inv h with ⟨e, rfl⟩ | hc
  · rfl
  · rw [hc.untouched.status]; rfl

/-! ## The run to the completion -/

theorem writePlace_inbox (s : State) (v : Word) (p : Place) : (s.writePlace v p).inbox = s.inbox := by
  rcases writePlace_cases s v p with ⟨-, hw⟩ | ⟨-, hw⟩ | ⟨-, -, -, hw⟩ | ⟨-, -, -, hw⟩
  · simp [hw]
  · simp [hw]
  · simp [hw]
  · obtain ⟨-, -, hinbox, -⟩ := writeIdle_environment s v p
    rw [hw, hinbox]

/-- A transaction leaves the transactions still to come, but for a `wait` that is put back (R113). -/
theorem serve_inbox (tx : HostTx) (s : State) : (serve tx s).inbox = s.inbox ∨ (serve tx s).inbox = .wait :: s.inbox := by
  cases tx with
  | regRead bytes off => simp only [serve]; split <;> exact .inl rfl
  | regWrite bytes off v =>
    simp only [serve]
    split
    · exact .inl (writePlace_inbox s v _)
    · exact .inl rfl
  | bmemRead addr n => simp only [serve]; split <;> exact .inl rfl
  | bmemWrite addr n v =>
    simp only [serve]
    split
    · split <;> exact .inl rfl
    · exact .inl rfl
  | wait =>
    simp only [serve]
    split
    · exact .inr rfl
    · exact .inl rfl
  | rst => exact .inl rfl

theorem rst_not_mem_serve {tx : HostTx} {s : State} (h : .rst ∉ s.inbox) : .rst ∉ (serve tx s).inbox := by
  rcases serve_inbox tx s with hi | hi <;> rw [hi]
  · exact h
  · simpa using h

/-- With a command in flight the host moves only where it has a transaction and the schedule names it (log 5). -/
theorem inbox_schedule_of_host_moves {s : State} (hb : s.status.busy = true) (hm : s.engineMoves = false) :
    (∃ tx rest, s.inbox = tx :: rest) ∧ ∃ l, s.schedule = .host :: l := by
  rw [State.engineMoves, hb, Bool.true_and, Bool.or_eq_false_iff, bne_eq_false_iff_eq] at hm
  obtain ⟨hinbox, hhead⟩ := hm
  exact ⟨List.exists_cons_of_ne_nil (by simpa using hinbox), List.head?_eq_some_iff.mp hhead⟩

section
variable {i : Instr} {s t : State} (h : Undisturbed s t)
include h

/-- Where the engine moves, the step completes the command as on the state as it stood. -/
theorem Undisturbed.step_engine (hd : decode s.cmd = .ok i) (hm : t.engineMoves = true) :
    ∃ u, exec i { s with draws := t.turn.draws } = .next u ∧ step t = .next (u.withHostSide t.turn) := by
  obtain ⟨u, hu, ht⟩ := h.turn.exec_eq i
  have hcmd : decode t.turn.cmd = .ok i := by rw [h.turn.cmd, hd]
  exact ⟨u, hu, by rw [step, if_pos hm, runEngine, hcmd]; exact ht⟩

/-- Where the host moves, the step serves a transaction, which uses up an entry of the schedule and does not disturb the
command in flight. -/
theorem Undisturbed.step_host (hf : InFlight t) (hrst : .rst ∉ t.inbox) (hm : t.engineMoves = false) :
    ∃ v, step t = .next v ∧ Undisturbed s v ∧ t.schedule = .host :: v.schedule ∧ .rst ∉ v.inbox := by
  obtain ⟨⟨tx, rest, hinbox⟩, l, hl⟩ := inbox_schedule_of_host_moves hf.busy hm
  rw [hinbox, List.mem_cons, not_or] at hrst
  obtain ⟨htx, hrest⟩ := hrst
  have hstart : Undisturbed s { t.turn with inbox := rest } := h.turn.withInbox rest
  have hflight : InFlight { t.turn with inbox := rest } := ⟨hf.busy, hf.done, hf.err, hf.errCode⟩
  refine ⟨_, ?_, hstart.serve hflight (Ne.symm htx), ?_, rst_not_mem_serve hrest⟩
  · rw [step, if_neg (by simp [hm]), runHost, hinbox]
  · obtain ⟨hschedule, -, -⟩ := serve_environment tx { t.turn with inbox := rest }
    rw [hschedule, hl]
    simp [hf.busy, hl]

end

/-- Whatever the host issues but a reset, the command in flight completes as on the state as it stood, after at most one
transaction for each entry of the schedule. -/
theorem Undisturbed.run_completes {i : Instr} {s t : State} (h : Undisturbed s t) (hf : InFlight s)
    (hd : decode s.cmd = .ok i) (hrst : .rst ∉ t.inbox) :
    ∃ n ≤ t.schedule.length + 1, ∃ (u e : State) (d : Nat),
      Sys2Proof.core.run n t = .next (u.withHostSide e) ∧ exec i { s with draws := d } = .next u := by
  cases hm : t.engineMoves with
  | true =>
    obtain ⟨u, hu, hstep⟩ := h.step_engine hd hm
    exact ⟨1, by omega, u, t.turn, _, run_succ 0 hstep, hu⟩
  | false =>
    obtain ⟨v, hstep, hv, hschedule, hrst'⟩ := h.step_host (h.inFlight hf) hrst hm
    obtain ⟨n, hn, u, e, d, hrun, hu⟩ := hv.run_completes hf hd hrst'
    refine ⟨n + 1, ?_, u, e, d, (run_succ n hstep).trans hrun, hu⟩
    rw [hschedule, List.length_cons]
    omega
termination_by t.schedule.length
decreasing_by rw [hschedule, List.length_cons]; omega

/-- Settles O33: nothing has disturbed the state the run begins with, and its end differs from that of `exec` in the host's
side only. -/
theorem completionIgnoresTheHost : Obligations.CompletionIgnoresTheHost := by
  intro s i hbusy hdone herr hcode hd hrst
  obtain ⟨n, hn, u, e, d, hrun, hu⟩ := (Undisturbed.refl s).run_completes ⟨hbusy, hdone, herr, hcode⟩ hd hrst
  have hended : u.status.busy = false := exec_not_busy hu
  exact ⟨n, hn, u.withHostSide e, u, d, hrun, hu, hended, rfl, rfl, rfl, rfl, rfl, rfl, rfl, rfl, rfl⟩

end Sys2Proof.Machine
end

section
/-! The thirteen command words: a word decodes exactly when it is one of them, and printing and assembling are inverse on
them (R100 to R104, R114). -/

namespace Sys2Proof

/-! ## The opcode map -/

theorem Instr.mem_all (i : Instr) : i ∈ Instr.all := by cases i <;> decide

/-- Bits [7:0] of a command word hold its opcode (R100). -/
theorem opcodeOf_lt (i : Instr) : opcodeOf i < 256 := by cases i <;> decide

/-- The decoder's table is the opcode map read from right to left (R103). -/
theorem instrOfOpcode_eq_some_iff {n : Nat} {i : Instr} : instrOfOpcode n = some i ↔ n = opcodeOf i := by
  constructor
  · intro h
    unfold instrOfOpcode at h
    split at h <;> cases h <;> rfl
  · rintro rfl
    cases i <;> rfl

theorem assignedOpcodes_eq_map_opcodeOf : assignedOpcodes = Instr.all.map opcodeOf := rfl

theorem mem_assignedOpcodes_iff {n : Nat} : n ∈ assignedOpcodes ↔ ∃ i, n = opcodeOf i := by
  simp [assignedOpcodes_eq_map_opcodeOf, Instr.mem_all, eq_comm]

/-! ## Command words -/

@[simp] theorem encode_toNat (i : Instr) : (encode i).toNat = opcodeOf i := by
  have := opcodeOf_lt i
  rw [encode, BitVec.toNat_ofNat]
  omega

/-- The two fields of a command's word: bits [31:8] are 0 and bits [7:0] are its opcode (R100). -/
theorem eq_encode_iff {w : Word} {i : Instr} : w = encode i ↔ w.toNat / 256 = 0 ∧ w.toNat % 256 = opcodeOf i := by
  have := opcodeOf_lt i
  rw [← BitVec.toNat_inj, encode_toNat]
  omega

/-- The decoder answers a command for its own word only (R101, R104). -/
theorem decode_eq_ok_iff {w : Word} {i : Instr} : decode w = .ok i ↔ w = encode i := by
  rw [eq_encode_iff, ← instrOfOpcode_eq_some_iff, decode]
  by_cases hupper : w.toNat / 256 = 0
  · cases instrOfOpcode (w.toNat % 256) <;> simp [hupper]
  · simp [hupper]

@[simp] theorem decode_encode (i : Instr) : decode (encode i) = .ok i := decode_eq_ok_iff.mpr rfl

/-- A word of no command is illegal (R104). -/
theorem exists_decode_eq_error {w : Word} (h : ∀ i, w ≠ encode i) : ∃ e, decode w = .error e := by
  cases hd : decode w with
  | error e => exact ⟨e, rfl⟩
  | ok i => exact absurd (decode_eq_ok_iff.mp hd) (h i)

theorem upperBitsZero_iff {w : Word} : upperBitsZero w = true ↔ w.toNat / 256 = 0 := beq_iff_eq

theorem opcodeAssigned_iff {w : Word} : opcodeAssigned w = true ↔ ∃ i, w.toNat % 256 = opcodeOf i := by
  rw [opcodeAssigned, List.contains_iff_mem, mem_assignedOpcodes_iff]

/-- The check on the word's fields accepts the words of the commands and no others (R104). -/
theorem wordWellFormed_iff {w : Word} : wordWellFormed w = true ↔ ∃ i, w = encode i := by
  simp only [wordWellFormed, Bool.and_eq_true, upperBitsZero_iff, opcodeAssigned_iff, eq_encode_iff, exists_and_left]

/-! ## Printing and assembling -/

@[simp] theorem printWord_encode (i : Instr) : printWord (encode i) = i.mnemonic := by rw [printWord, decode_encode]

theorem printWord_of_decode_error {w : Word} {e : DecodeError} (h : decode w = .error e) :
    printWord w = ".word 0x" ++ hexWord w := by rw [printWord, h]

/-- No earlier row of the table has the same mnemonic, so the search stops at the command's own row. -/
@[simp] theorem assemble_mnemonic (i : Instr) : assemble i.mnemonic = some (encode i) := by cases i <;> rfl

/-- Up to letter case, the model's digits are the usual ones (log 22). -/
theorem toLower_hexDigit : ∀ n < 16, (hexDigit n).toLower = Nat.digitChar n := by decide

theorem hexWord_toList_map_toLower (w : Word) :
    (hexWord w).toList.map Char.toLower = (List.range 8).map (fun i => Nat.digitChar (w.toNat / 16 ^ (7 - i) % 16)) := by
  rw [hexWord, String.toList_ofList, List.map_map]
  exact List.map_congr_left fun i _ => toLower_hexDigit _ (Nat.mod_lt _ (by decide))

/-! ## The obligations -/

/-- Settles O2: both the decoder and the check are characterised by the two fields of a command's word. -/
theorem legalWordsAreTheThirteen : Obligations.LegalWordsAreTheThirteen :=
  fun _ => ⟨fun _ => decode_eq_ok_iff, wordWellFormed_iff⟩

/-- Settles O1: the decoder's answer is that of `decode_encode`, and no command has a field to check. -/
theorem decodeInvertsEncode : Obligations.DecodeInvertsEncode := by
  intro i
  have hwf : i.wellFormed = true := by cases i <;> rfl
  exact ⟨hwf, decode_encode i⟩

/-- Settles O3: each of the first six words is the encoding of its command; the last two are evaluated. -/
theorem writtenOutWordsDecode : Obligations.WrittenOutWordsDecode :=
  ⟨decode_encode .neg, decode_encode .thresh, decode_encode .otsu, decode_encode .conv, decode_encode .sobel,
    decode_encode .resizeBl, by decide, by decide⟩

/-- Settles O4: by the decoder's answer for the word, and digit by digit for the illegal ones. -/
theorem printingAndAssemblingAreInverse : Obligations.PrintingAndAssemblingAreInverse := by
  refine ⟨fun i => ⟨printWord_encode i, assemble_mnemonic i⟩, fun w hw => ?_⟩
  obtain ⟨e, he⟩ := exists_decode_eq_error hw
  exact ⟨printWord_of_decode_error he, hexWord_toList_map_toLower w, e, he⟩

end Sys2Proof
end

section
/-! The command in flight: a write to CMD is accepted or dropped, a step at which the engine moves executes the command, and
every command in flight ends (R120 to R122, R131). -/

namespace Sys2Proof.Machine

variable {i : Instr} {s : State}

/-! ## Acceptance (R120) -/

theorem writePlace_cmd (s : State) (c : Word) :
    s.writePlace c (.reg .cmd) = if s.status.busy then s.drop else s.accept c := rfl

/-- Settles O15: while idle the write is an acceptance, while busy it is dropped. -/
theorem commandAcceptance : Obligations.CommandAcceptance := by
  intro s c
  have hserve : serve (.regWrite 4 0x010 c) s = (s.writePlace c (.reg .cmd)).answer .written :=
    serve_regWrite (place_offset .cmd) s c
  rw [hserve, writePlace_cmd]
  split <;> rfl

/-! ## The engine's step (R121, R122) -/

/-- Where the engine moves and CMD holds a command, the step executes it. -/
theorem step_of_engineMoves (hm : s.engineMoves = true) (hd : decode s.cmd = .ok i) : step s = exec i s.turn := by
  have hcmd : decode s.turn.cmd = .ok i := hd
  rw [step, if_pos hm, runEngine, hcmd]

/-- A placed command is the next to run, whatever the host has still to issue (log 15). -/
theorem placeCommand_engineMoves (s : State) (w : Word) : (s.placeCommand w).engineMoves = true := by
  simp [State.engineMoves]

/-- The turn of a placed command uses up the schedule's entry that the placement put there. -/
theorem placeCommand_turn (s : State) (w : Word) :
    (s.placeCommand w).turn = { s with cmd := w, status := s.status.accepted, draws := s.draws + 1 } := rfl

/-- The word of a row of the opcode table has 32 bits, so nothing of it is cut. -/
theorem withFetchWord_toNat (s : State) (w : Word) : s.withFetchWord 32 w.toNat = s.placeCommand w := by
  rw [State.withFetchWord, Nat.mod_eq_of_lt w.isLt, BitVec.ofNat_toNat, BitVec.setWidth_eq]

/-- Settles O5: CMD decodes to the command that runs, and a placed word is that of its command. -/
theorem stepRunsTheCommandInFlight : Obligations.StepRunsTheCommandInFlight := by
  refine ⟨fun s i hm hd => step_of_engineMoves hm hd, fun s i => ?_⟩
  have hd : decode (s.placeCommand (encode i)).cmd = .ok i := decode_encode i
  rw [withFetchWord_toNat, step_of_engineMoves (placeCommand_engineMoves s _) hd, placeCommand_turn]

/-! ## The end of the command in flight (R131) -/

/-- A step at which the engine moves ends what is in flight, be it a command or an illegal word (R127, R275, R276). -/
theorem step_not_busy_of_engineMoves (hm : s.engineMoves = true) :
    ∃ t, step s = .next t ∧ t.status.busy = false := by
  rcases step_cases s with ⟨-, i, -, hstep⟩ | ⟨-, -, hstep⟩ | ⟨hhost, -⟩ | ⟨hhost, -⟩
  · obtain ⟨t, ht⟩ := exec_next i s.turn
    exact ⟨t, hstep.trans ht, exec_not_busy ht⟩
  · exact ⟨_, hstep, rfl⟩
  · rw [hm] at hhost; cases hhost
  · rw [hm] at hhost; cases hhost

/-- A step at which the host moves while a command is in flight uses up an entry of the schedule, whatever it serves. -/
theorem step_schedule_of_host_moves (hb : s.status.busy = true) (hm : s.engineMoves = false) :
    ∃ t, step s = .next t ∧ s.schedule = .host :: t.schedule := by
  obtain ⟨⟨tx, rest, hinbox⟩, l, hl⟩ := inbox_schedule_of_host_moves hb hm
  refine ⟨serve tx { s.turn with inbox := rest }, by rw [step, if_neg (by simp [hm]), runHost, hinbox], ?_⟩
  obtain ⟨hschedule, -, -⟩ := serve_environment tx { s.turn with inbox := rest }
  rw [hschedule, hl]
  simp [hb, hl]

/-- From a state with a command in flight a run ends it: each step is the engine's, or a reset, or it leaves a shorter
schedule. -/
theorem run_ends_command (s : State) (hb : s.status.busy = true) :
    ∃ n ≤ s.schedule.length + 1, ∃ t : State, Sys2Proof.core.run n s = .next t ∧ t.status.busy = false := by
  cases hm : s.engineMoves with
  | true =>
    obtain ⟨t, hstep, ht⟩ := step_not_busy_of_engineMoves hm
    exact ⟨1, by omega, t, run_succ 0 hstep, ht⟩
  | false =>
    obtain ⟨u, hstep, hschedule⟩ := step_schedule_of_host_moves hb hm
    cases hu : u.status.busy with
    | false => exact ⟨1, by omega, u, run_succ 0 hstep, hu⟩
    | true =>
      obtain ⟨n, hn, t, hrun, ht⟩ := run_ends_command u hu
      refine ⟨n + 1, ?_, t, (run_succ n hstep).trans hrun, ht⟩
      rw [hschedule, List.length_cons]
      omega
termination_by s.schedule.length
decreasing_by rw [hschedule, List.length_cons]; omega

/-- Settles O8, by recursion on the length of the schedule. -/
theorem commandInFlightCompletes : Obligations.CommandInFlightCompletes :=
  run_ends_command

end Sys2Proof.Machine
end

section
/-! The checks of a command decide its completion: it commits where all pass, and takes the error of the first that fails,
in the order source, parameters, destination (R123, R127, R128, R277). -/

namespace Sys2Proof.Machine

/-! ## Sequences of parameter checks -/

/-- The check x tests the condition P of a parameter: it passes under P, and fails with InvalidParameter elsewhere. -/
structure ChecksParameter {α : Type} (x : Except ErrorKind α) (P : Prop) : Prop where
  passes : P → ∃ a, x = .ok a
  fails  : ¬P → x = .error .invalidParameter

section
variable {α β : Type} {x : Except ErrorKind α} {f : α → Except ErrorKind β} {P Q : Prop} (hx : ChecksParameter x P)
include hx

/-- A failing check ends the sequence. -/
theorem ChecksParameter.bind_error (hP : ¬P) : (x >>= f) = .error .invalidParameter := by
  rw [hx.fails hP, except_error_bind]

/-- Of two conditions the first is tested first; whichever fails, the error is the same. -/
theorem ChecksParameter.bind_error_of_not_and (hf : ∀ a, ¬Q → f a = .error .invalidParameter) (h : ¬(P ∧ Q)) :
    (x >>= f) = .error .invalidParameter := by
  by_cases hP : P
  · obtain ⟨a, ha⟩ := hx.passes hP
    rw [ha, except_ok_bind]
    exact hf a fun hQ => h ⟨hP, hQ⟩
  · exact hx.bind_error hP

end

variable {i : Instr} {s : State} {e : ErrorKind}

theorem checkBorder_checks (s : State) : ChecksParameter (checkBorder s) (s.operands.border ≠ 3) where
  passes h := (Border.ofBits_exists h).imp fun _ => checkBorder_ok
  fails h := checkBorder_error (not_not.mp h)

theorem checkKsize_checks (s : State) : ChecksParameter (checkKsize s) (KsizeOk s) :=
  ⟨fun h => ⟨_, checkKsize_ok h⟩, checkKsize_error⟩

theorem checkSigma_checks (s : State) : ChecksParameter (checkSigma s) (PositiveUq88 s.operands.sigma) :=
  ⟨fun h => ⟨_, checkSigma_ok h⟩, checkSigma_error⟩

theorem checkGamma_checks (s : State) : ChecksParameter (checkGamma s) (PositiveUq88 s.operands.gamma) :=
  ⟨fun h => ⟨_, checkGamma_ok h⟩, checkGamma_error⟩

theorem checkAmount_checks (s : State) : ChecksParameter (checkAmount s) (Uq88 s.operands.amount) :=
  ⟨fun h => ⟨_, checkAmount_ok h⟩, checkAmount_error⟩

theorem checkThresh_checks (s : State) : ChecksParameter (checkThresh s) (s.operands.thresh.toNat ≤ 255) :=
  ⟨fun h => ⟨_, checkThresh_ok h⟩, checkThresh_error⟩

theorem checkNewDim_checks (p : Word) : ChecksParameter (checkNewDim p) (NewDimOk p) :=
  ⟨fun h => ⟨_, checkNewDim_ok h⟩, checkNewDim_error⟩

/-! ## The error of a command's checks -/

/-- A command whose checks fail takes their error (R128). -/
theorem next_settle_error {α : Type} {c : Except ErrorKind α} (f : α → State → State) (s : State) (h : c = .error e) :
    (.next (settle c f s) : Host.Outcome State Fault Refusal) = .next (s.takeError e) := by
  rw [settle_error f s h]

/-- The check of the source is the first of every command that has one (R123). -/
theorem exec_of_source_error (hr : readsSource i = true) (hc : checkSrc s = .error e) :
    exec i s = .next (s.takeError e) := by
  cases i with
  | otsu => cases hr
  | hist => exact next_settle_error _ s hc
  | neg | log => exact next_settle_error _ s (by rw [checksPoint, hc, except_error_bind])
  | gamma => exact next_settle_error _ s (by rw [checksGamma, hc, except_error_bind])
  | thresh => exact next_settle_error _ s (by rw [checksThresh, hc, except_error_bind])
  | conv | box => exact next_settle_error _ s (by rw [checksConv, hc, except_error_bind])
  | gauss => exact next_settle_error _ s (by rw [checksGauss, hc, except_error_bind])
  | unsharp => exact next_settle_error _ s (by rw [checksUnsharp, hc, except_error_bind])
  | sobel => exact next_settle_error _ s (by rw [checksSobel, hc, except_error_bind])
  | resizeNn | resizeBl => exact next_settle_error _ s (by rw [checksResize, hc, except_error_bind])

/-- After a legal source, an illegal parameter decides the error (R123, R274). -/
theorem exec_of_parameter_error (hs : SrcOk s) (hp : ¬ParamsOk i s) :
    exec i s = .next (s.takeError .invalidParameter) := by
  have hsrc := checkSrc_ok hs
  cases i with
  | neg | log | hist | otsu => exact absurd trivial hp
  | gamma =>
    refine next_settle_error _ s ?_
    rw [checksGamma, hsrc]
    exact (checkGamma_checks s).bind_error hp
  | thresh =>
    refine next_settle_error _ s ?_
    rw [checksThresh, hsrc]
    exact (checkThresh_checks s).bind_error hp
  | conv | box =>
    refine next_settle_error _ s ?_
    rw [checksConv, hsrc]
    exact (checkBorder_checks s).bind_error_of_not_and (fun _ => (checkKsize_checks s).bind_error) hp
  | gauss =>
    refine next_settle_error _ s ?_
    rw [checksGauss, hsrc]
    exact (checkBorder_checks s).bind_error_of_not_and (fun _ =>
      (checkKsize_checks s).bind_error_of_not_and fun _ => (checkSigma_checks s).bind_error) hp
  | unsharp =>
    refine next_settle_error _ s ?_
    rw [checksUnsharp, hsrc]
    exact (checkBorder_checks s).bind_error_of_not_and (fun _ =>
      (checkKsize_checks s).bind_error_of_not_and fun _ =>
      (checkSigma_checks s).bind_error_of_not_and fun _ => (checkAmount_checks s).bind_error) hp
  | sobel =>
    refine next_settle_error _ s ?_
    rw [checksSobel, hsrc]
    exact (checkBorder_checks s).bind_error hp
  | resizeNn | resizeBl =>
    refine next_settle_error _ s ?_
    rw [checksResize, hsrc]
    exact (checkNewDim_checks _).bind_error_of_not_and (fun _ => (checkNewDim_checks _).bind_error) hp

theorem checkDst_bind_error {α : Type} {ow oh oc : Nat} {f : Unit → Except ErrorKind α} (h : ¬DstOk s ow oh oc) :
    (checkDst s ow oh oc >>= f) = .error .invalidBuffer := by
  rw [checkDst_error h, except_error_bind]

/-- After a legal source and legal parameters, the destination decides (R123, R126). -/
theorem exec_of_destination_error (hb : producesBuffer i = true) (hs : SrcOk s) (hp : ParamsOk i s)
    (hd : ¬DestinationOk i s) : exec i s = .next (s.takeError .invalidBuffer) := by
  have hsrc := checkSrc_ok hs
  cases i with
  | hist | otsu => cases hb
  | neg | log =>
    refine next_settle_error _ s ?_
    rw [checksPoint, hsrc]
    exact checkDst_bind_error hd
  | gamma =>
    refine next_settle_error _ s ?_
    simp only [checksGamma, hsrc, checkGamma_ok hp, except_ok_bind]
    exact checkDst_bind_error hd
  | thresh =>
    refine next_settle_error _ s ?_
    simp only [checksThresh, hsrc, checkThresh_ok hp, except_ok_bind]
    exact checkDst_bind_error hd
  | conv | box =>
    obtain ⟨hborder, hk⟩ := hp
    obtain ⟨m, hm⟩ := (checkBorder_checks s).passes hborder
    refine next_settle_error _ s ?_
    simp only [checksConv, hsrc, hm, checkKsize_ok hk, except_ok_bind]
    exact checkDst_bind_error hd
  | gauss =>
    obtain ⟨hborder, hk, hsigma⟩ := hp
    obtain ⟨m, hm⟩ := (checkBorder_checks s).passes hborder
    refine next_settle_error _ s ?_
    simp only [checksGauss, hsrc, hm, checkKsize_ok hk, checkSigma_ok hsigma, except_ok_bind]
    exact checkDst_bind_error hd
  | unsharp =>
    obtain ⟨hborder, hk, hsigma, hamount⟩ := hp
    obtain ⟨m, hm⟩ := (checkBorder_checks s).passes hborder
    refine next_settle_error _ s ?_
    simp only [checksUnsharp, hsrc, hm, checkKsize_ok hk, checkSigma_ok hsigma, checkAmount_ok hamount, except_ok_bind]
    exact checkDst_bind_error hd
  | sobel =>
    obtain ⟨m, hm⟩ := (checkBorder_checks s).passes hp
    refine next_settle_error _ s ?_
    simp only [checksSobel, hsrc, hm, except_ok_bind]
    exact checkDst_bind_error hd
  | resizeNn | resizeBl =>
    obtain ⟨hw, hh⟩ := hp
    refine next_settle_error _ s ?_
    simp only [checksResize, hsrc, checkNewDim_ok hw, checkNewDim_ok hh, except_ok_bind]
    exact checkDst_bind_error hd

/-! ## The completion -/

/-- A command takes the error of its first failing check (R128, R277). -/
theorem exec_of_firstFailure (h : FirstFailure i s e) : exec i s = .next (s.takeError e) := by
  cases e with
  | unsupportedChannelCount =>
    obtain ⟨hr, hc⟩ := h
    exact exec_of_source_error hr (checkSrc_channels hc)
  | invalidBuffer =>
    rcases h with ⟨hr, hc, hrange⟩ | ⟨hb, hs, hp, hd⟩ | ⟨rfl, hempty⟩
    · exact exec_of_source_error hr (checkSrc_range hc hrange)
    · exact exec_of_destination_error hb hs hp hd
    · exact next_settle_error _ s (checkHistogram_error hempty)
  | invalidParameter =>
    obtain ⟨-, hs, hp⟩ := h
    exact exec_of_parameter_error hs hp
  | invalidCommand => exact h.elim

/-- A command whose checks all pass ends in the success completion (R127). -/
theorem exec_of_checksPass (h : ChecksPass i s) : ∃ t, exec i s = .next t ∧ Done s t := by
  obtain ⟨hsrc, hp, hd, hhist⟩ := h
  cases i with
  | neg => exact ⟨_, execNeg_ok (hsrc rfl) (hd rfl), rfl⟩
  | log => exact ⟨_, execLog_ok (hsrc rfl) (hd rfl), rfl⟩
  | gamma => exact ⟨_, execGamma_ok (hsrc rfl) hp (hd rfl), rfl⟩
  | thresh => exact ⟨_, execThresh_ok (hsrc rfl) hp (hd rfl), rfl⟩
  | hist => exact ⟨_, execHist_ok (hsrc rfl), rfl⟩
  | otsu => exact ⟨_, execOtsu_ok (hhist rfl), rfl⟩
  | conv =>
    obtain ⟨hborder, hk⟩ := hp
    obtain ⟨m, hm⟩ := Border.ofBits_exists hborder
    exact ⟨_, execConv_ok (hsrc rfl) hm hk (hd rfl), rfl⟩
  | box =>
    obtain ⟨hborder, hk⟩ := hp
    obtain ⟨m, hm⟩ := Border.ofBits_exists hborder
    exact ⟨_, execBox_ok (hsrc rfl) hm hk (hd rfl), rfl⟩
  | gauss =>
    obtain ⟨hborder, hk, hsigma⟩ := hp
    obtain ⟨m, hm⟩ := Border.ofBits_exists hborder
    exact ⟨_, execGauss_ok (hsrc rfl) hm hk hsigma (hd rfl), rfl⟩
  | unsharp =>
    obtain ⟨hborder, hk, hsigma, hamount⟩ := hp
    obtain ⟨m, hm⟩ := Border.ofBits_exists hborder
    exact ⟨_, execUnsharp_ok (hsrc rfl) hm hk hsigma hamount (hd rfl), rfl⟩
  | sobel =>
    obtain ⟨m, hm⟩ := Border.ofBits_exists hp
    exact ⟨_, execSobel_ok (hsrc rfl) hm (hd rfl), rfl⟩
  | resizeNn =>
    obtain ⟨hw, hh⟩ := hp
    exact ⟨_, execResizeNn_ok (hsrc rfl) hw hh (hd rfl), rfl⟩
  | resizeBl =>
    obtain ⟨hw, hh⟩ := hp
    exact ⟨_, execResizeBl_ok (hsrc rfl) hw hh (hd rfl), rfl⟩

/-- OTSU has no parameter (R105), and every other command with an illegal one reads a source. -/
theorem readsSource_of_not_paramsOk (h : ¬ParamsOk i s) : readsSource i = true := by
  cases i with
  | otsu => exact absurd trivial h
  | _ => rfl

/-- Where some check fails, there is a first one: the conditions are tried in the order of R123. -/
theorem exists_firstFailure (h : ¬ChecksPass i s) : ∃ e, FirstFailure i s e := by
  by_cases hsrc : readsSource i = true → SrcOk s
  · by_cases hp : ParamsOk i s
    · by_cases hd : producesBuffer i = true → DestinationOk i s
      · have hempty : i = .otsu ∧ HistogramEmpty s := by
          by_contra hne
          exact h ⟨hsrc, hp, hd, fun hi he => hne ⟨hi, he⟩⟩
        exact ⟨.invalidBuffer, .inr (.inr hempty)⟩
      · obtain ⟨hb, hbad⟩ := Classical.not_imp.mp hd
        exact ⟨.invalidBuffer, .inr (.inl ⟨hb, hsrc (readsSource_of_producesBuffer hb), hp, hbad⟩)⟩
    · have hr := readsSource_of_not_paramsOk hp
      exact ⟨.invalidParameter, hr, hsrc hr, hp⟩
  · obtain ⟨hr, hbad⟩ := Classical.not_imp.mp hsrc
    by_cases hc : ChannelsOk s
    · exact ⟨.invalidBuffer, .inl ⟨hr, hc, fun hrange => hbad ⟨hc, hrange⟩⟩⟩
    · exact ⟨.unsupportedChannelCount, hr, hc⟩

/-- Settles O27: a command commits if no check fails, and else takes the error of the first that does. -/
theorem checksDecideTheCompletion : Obligations.ChecksDecideTheCompletion :=
  fun _ _ => ⟨exec_of_checksPass, fun h => (exists_firstFailure h).imp fun _ he => ⟨he, exec_of_firstFailure he⟩⟩

end Sys2Proof.Machine
end

section
/-! The tables of LOG and GAMMA: each counts the numbers of 1..255 that meet an integer inequality, and that count is the
rounded real function (R145, R147). -/

namespace Sys2Proof.Machine

/-! ## Counting up to a real number -/

/-- Where the numbers that meet p are those up to the real x, their count in 1..255 is the floor of x. -/
theorem count255_eq_floor {p : Nat → Bool} {x : ℝ} (h0 : 0 ≤ x) (h1 : x < 256)
    (h : ∀ j, 1 ≤ j → (p j = true ↔ (j : ℝ) ≤ x)) : (count255 p : Int) = ⌊x⌋ := by
  have hm : ⌊x⌋₊ < 256 := (Nat.floor_lt h0).2 (by exact_mod_cast h1)
  rw [count255_eq (m := ⌊x⌋₊) (by omega) fun j hj _ => (h j hj).trans (Nat.le_floor_iff h0).symm,
    Int.natCast_floor_eq_floor h0]

/-! ## The table of LOG (R145) -/

/-- LOGTAB as a cardinality (R145). -/
theorem logTable_eq_card (v : Nat) :
    logTable v = ((Finset.Icc 1 255).filter fun j => (1 + v) ^ 255 ≥ 2 ^ (8 * j - 4)).card := by
  rw [logTable, count255_eq_card]
  simp only [decide_eq_true_eq, ge_iff_le]

/-- The integer inequality of R145 compares logarithms. -/
theorem log_hit_iff {v j : Nat} (hj : 1 ≤ j) :
    2 ^ (8 * j - 4) ≤ (1 + v) ^ 255 ↔ (j : ℝ) ≤ 255 * Real.log (1 + v) / Real.log 256 + 1 / 2 := by
  have hlog2 : 0 < Real.log 2 := Real.log_pos one_lt_two
  have hlog256 : Real.log 256 = 8 * Real.log 2 := by
    rw [show (256 : ℝ) = 2 ^ 8 by norm_num, Real.log_pow]; norm_num
  have hexp : ((8 * j - 4 : Nat) : ℝ) = 8 * j - 4 := by
    rw [Nat.cast_sub (by omega)]; push_cast; ring
  have hv : (0 : ℝ) < 1 + v := by positivity
  calc 2 ^ (8 * j - 4) ≤ (1 + v) ^ 255
      ↔ (2 : ℝ) ^ (8 * j - 4) ≤ (1 + v) ^ 255 := by exact_mod_cast Iff.rfl
    _ ↔ (8 * j - 4) * Real.log 2 ≤ 255 * Real.log (1 + v) := by
        rw [← Real.log_le_log_iff (by positivity) (by positivity), Real.log_pow, Real.log_pow, hexp]; norm_num
    _ ↔ (j : ℝ) ≤ 255 * Real.log (1 + v) / Real.log 256 + 1 / 2 := by
        rw [hlog256, ← sub_le_iff_le_add, le_div_iff₀ (by positivity),
          show ((j : ℝ) - 1 / 2) * (8 * Real.log 2) = (8 * j - 4) * Real.log 2 by ring]

/-- LOGTAB is the rounded logarithm (R145). -/
theorem logTable_eq_floor {v : Nat} (hv : v < 256) :
    (logTable v : Int) = ⌊255 * Real.log (1 + v) / Real.log 256 + 1 / 2⌋ := by
  have hv' : (v : ℝ) + 1 ≤ 256 := by exact_mod_cast hv
  have h0 : 0 ≤ Real.log (1 + v) := Real.log_nonneg (by simp)
  have h256 : 0 < Real.log 256 := Real.log_pos (by norm_num)
  have hle : Real.log (1 + v) ≤ Real.log 256 := Real.log_le_log (by positivity) (by linarith)
  have hratio : 255 * Real.log (1 + v) / Real.log 256 ≤ 255 := by rw [div_le_iff₀ h256]; linarith
  refine count255_eq_floor (by positivity) (by linarith) fun j hj => ?_
  rw [decide_eq_true_eq, log_hit_iff hj]

/-- LOGTAB by the integer logarithm to base 256: the factor 16, the root of 256, does the rounding (R145). -/
theorem logTable_eq_log {v : Nat} (hv : v < 256) : logTable v = Nat.log 256 (16 * (1 + v) ^ 255) := by
  have hpos : 16 * (1 + v) ^ 255 ≠ 0 := by positivity
  have hlt : Nat.log 256 (16 * (1 + v) ^ 255) < 256 := by
    refine Nat.log_lt_of_lt_pow hpos ?_
    calc 16 * (1 + v) ^ 255 ≤ 16 * 256 ^ 255 := Nat.mul_le_mul_left _ (Nat.pow_le_pow_left (by omega) _)
      _ < 256 ^ 255 * 256 := by rw [Nat.mul_comm]; exact Nat.mul_lt_mul_of_pos_left (by omega) (by positivity)
      _ = 256 ^ 256 := (pow_succ 256 255).symm
  refine count255_eq (by omega) fun j hj _ => ?_
  have hpow : 256 ^ j = 16 * 2 ^ (8 * j - 4) := by
    rw [show 256 = 2 ^ 8 by norm_num, ← pow_mul, show 16 = 2 ^ 4 by norm_num, ← pow_add]
    congr 1; omega
  rw [decide_eq_true_eq, Nat.le_log_iff_pow_le (by omega) hpos, hpow, Nat.mul_le_mul_left_iff (by omega)]

/-- Settles O43: the table counts up to a real number, and the check sums are sums of integer logarithms. -/
theorem logTableIsTheRoundedLogarithm : Obligations.LogTableIsTheRoundedLogarithm := by
  refine ⟨fun v hv => ⟨logTable_eq_floor hv, logTable_eq_card v⟩, ?_, ?_⟩
  · rw [Finset.sum_congr rfl fun v hv => logTable_eq_log (Finset.mem_range.mp hv)]
    decide +kernel
  · rw [Finset.sum_congr rfl fun v hv => congrArg (v * ·) (logTable_eq_log (Finset.mem_range.mp hv))]
    decide +kernel

/-! ## The table of GAMMA (R147) -/

@[simp] theorem gammaTable_zero (gc : Nat) : gammaTable gc 0 = 0 := rfl

theorem gammaTable_of_pos (gc : Nat) {v : Nat} (hv : 1 ≤ v) :
    gammaTable gc v = count255 fun j => (2 * j - 1) ^ 256 * 255 ^ gc ≤ 510 ^ 256 * v ^ gc :=
  if_neg (by omega)

/-- gam as a cardinality (R147). -/
theorem gammaTable_eq_card (gc v : Nat) :
    gammaTable gc v = if v = 0 then 0 else
      ((Finset.Icc 1 255).filter fun j => (2 * j - 1) ^ 256 * 255 ^ gc ≤ 510 ^ 256 * v ^ gc).card := by
  rw [gammaTable, count255_eq_card]
  simp only [decide_eq_true_eq]

/-- A 256th power of the real power of R147 is a rational power. -/
theorem rpow_div_256_pow {a : ℝ} (ha : 0 ≤ a) (gc : Nat) : (a ^ ((gc : ℝ) / 256)) ^ 256 = a ^ gc := by
  rw [← Real.rpow_natCast, ← Real.rpow_mul ha, ← Real.rpow_natCast]
  congr 1
  push_cast
  field_simp

/-- The integer inequality of R147 compares 256th powers. -/
theorem gamma_hit_iff {gc v j : Nat} (hj : 1 ≤ j) :
    (2 * j - 1) ^ 256 * 255 ^ gc ≤ 510 ^ 256 * v ^ gc ↔
      (j : ℝ) ≤ 255 * ((v : ℝ) / 255) ^ ((gc : ℝ) / 256) + 1 / 2 := by
  have hodd : ((2 * j - 1 : Nat) : ℝ) = 2 * j - 1 := by rw [Nat.cast_sub (by omega)]; push_cast; ring
  have hodd0 : (0 : ℝ) ≤ ((2 * j - 1 : Nat) : ℝ) / 510 := by positivity
  have hv : (0 : ℝ) ≤ (v : ℝ) / 255 := by positivity
  calc (2 * j - 1) ^ 256 * 255 ^ gc ≤ 510 ^ 256 * v ^ gc
      ↔ ((2 * j - 1 : Nat) : ℝ) ^ 256 * 255 ^ gc ≤ v ^ gc * 510 ^ 256 := by
        rw [Nat.mul_comm (510 ^ 256)]; exact_mod_cast Iff.rfl
    _ ↔ (((2 * j - 1 : Nat) : ℝ) / 510) ^ 256 ≤ ((v : ℝ) / 255) ^ gc := by
        rw [div_pow, div_pow, div_le_div_iff₀ (by positivity) (by positivity)]
    _ ↔ ((2 * j - 1 : Nat) : ℝ) / 510 ≤ ((v : ℝ) / 255) ^ ((gc : ℝ) / 256) := by
        rw [← rpow_div_256_pow hv, pow_le_pow_iff_left₀ hodd0 (Real.rpow_nonneg hv _) (by norm_num)]
    _ ↔ (j : ℝ) ≤ 255 * ((v : ℝ) / 255) ^ ((gc : ℝ) / 256) + 1 / 2 := by
        rw [hodd, div_le_iff₀ (by norm_num)]
        constructor <;> intro h <;> linarith

/-- gam is the rounded real power (R147). -/
theorem gammaTable_eq_floor (gc : Nat) {v : Nat} (h1 : 1 ≤ v) (hv : v < 256) :
    (gammaTable gc v : Int) = ⌊255 * ((v : ℝ) / 255) ^ ((gc : ℝ) / 256) + 1 / 2⌋ := by
  have hv' : (v : ℝ) + 1 ≤ 256 := by exact_mod_cast hv
  have hbase : (v : ℝ) / 255 ≤ 1 := by rw [div_le_one (by norm_num)]; linarith
  have hpow : ((v : ℝ) / 255) ^ ((gc : ℝ) / 256) ≤ 1 := Real.rpow_le_one (by positivity) hbase (by positivity)
  rw [gammaTable_of_pos gc h1]
  refine count255_eq_floor (by positivity) (by linarith) fun j hj => ?_
  rw [decide_eq_true_eq, gamma_hit_iff hj]

/-- The code 256, a gamma of 1, is the identity (R147). -/
theorem gammaTable_256 {v : Nat} (hv : v ≤ 255) : gammaTable 256 v = v := by
  rcases Nat.eq_zero_or_pos v with rfl | hpos
  · rfl
  · rw [gammaTable_of_pos 256 hpos]
    refine count255_eq hv fun j hj _ => ?_
    rw [decide_eq_true_eq, ← mul_pow, ← mul_pow, Nat.pow_le_pow_iff_left (by decide)]
    omega

/-- Settles O44: the table counts up to a real number. -/
theorem gammaTableIsTheRoundedPower : Obligations.GammaTableIsTheRoundedPower :=
  fun gc v _ _ hv => ⟨gammaTable_zero gc, fun h1 => gammaTable_eq_floor gc h1 hv, gammaTable_eq_card gc v,
    gammaTable_256 (by omega)⟩

end Sys2Proof.Machine
end

section
/-! What the point transforms leave behind, and the grayscale view they and others read (R140 to R148). -/

namespace Sys2Proof.Machine

/-! ## The luma function and the grayscale view (R140, R141) -/

/-- Settles O35: the floor division by 1000 is the rounding of R10. -/
theorem lumaIsTheRoundedWeightedSum : Obligations.LumaIsTheRoundedWeightedSum := by
  intro r g b hr hg hb
  refine ⟨?_, gray_le hr hg hb, by rw [gray]; omega⟩
  have hround := fdiv_eq_round ((299 * r + 587 * g + 114 * b : Nat) : Int) (b := 1000) (by decide)
  rw [Int.cast_natCast, Int.cast_ofNat] at hround
  rw [← hround, gray, fdiv]
  omega

/-- A sample that has been written reads as its value, at any site (R58, R78). -/
theorem sample_written {s : State} {b : Buf} {x y c : Nat} {v : Byte}
    (h : Memory.get? s.bmem (b.sampleAddr x y c) = some v) (site : List Nat) : s.sample b site x y c = v.toNat := by
  rw [State.sample, State.byteAt, h, Option.getD_some]

/-- Settles O36: the view reads the written samples at the addresses of R78. -/
theorem grayscaleView : Obligations.GrayscaleView := by
  intro s x y
  refine ⟨fun v hc hv => ?_, fun r g b hc hr hg hb => ?_⟩
  · rw [sourceGray, State.grayAt, if_pos hc, sample_written (v := v)]
    rw [Buf.sampleAddr, hc, Nat.mul_one, Nat.add_zero, hv]
  · rw [sourceGray, State.grayAt, if_neg (by omega), gray, sample_written (v := r), sample_written (v := g),
      sample_written (v := b)]
    all_goals rw [Buf.sampleAddr, hc]; assumption

/-! ## The completions (R142) -/

variable {s : State}

theorem SrcOk.width_le (hs : SrcOk s) : s.src.w ≤ 65535 := hs.2.1.2

theorem SrcOk.height_le (hs : SrcOk s) : s.src.h ≤ 65535 := hs.2.2.1.2

/-- A per-channel transform leaves the table of each sample in the destination, and the table in the LUT (R142). -/
theorem commitPoint_results (f : Nat → Nat) (hs : SrcOk s) (hd : DstOk s s.src.w s.src.h s.src.c) :
    Done s (commitPoint f s.src s).succeed ∧
      HoldsBuffer s (commitPoint f s.src s).succeed s.src.w s.src.h s.src.c
        (fun x y c => BitVec.ofNat 8 (f (s.sample s.src [x, y, c] x y c))) ∧
      ∀ v < 256, Memory.get? (commitPoint f s.src s).succeed.lut v = some (BitVec.ofNat 8 (f v)) :=
  ⟨rfl, produce_holds hs hd hs.width_le hs.height_le hs.1 rfl rfl fun _ _ _ _ _ _ => rfl,
    fun _ hv => get?_table s.lut 256 _ hv⟩

/-- The same for a transform of the grayscale view, with one channel out (R142). -/
theorem commitGrayPoint_results (f : Nat → Nat) (hs : SrcOk s) (hd : DstOk s s.src.w s.src.h 1) :
    Done s (commitGrayPoint f s.src s).succeed ∧
      HoldsBuffer s (commitGrayPoint f s.src s).succeed s.src.w s.src.h 1
        (fun x y _ => BitVec.ofNat 8 (f (sourceGray s x y))) ∧
      ∀ v < 256, Memory.get? (commitGrayPoint f s.src s).succeed.lut v = some (BitVec.ofNat 8 (f v)) :=
  ⟨rfl, produce_holds hs hd hs.width_le hs.height_le (.inl rfl) rfl rfl fun _ _ _ _ _ _ => rfl,
    fun _ hv => get?_table s.lut 256 _ hv⟩

/-- Settles O39: NEG commits the table 255 - v. -/
theorem negResult : Obligations.NegResult :=
  fun _ hs hd => ⟨_, execNeg_ok hs hd, commitPoint_results negTable hs hd⟩

/-- Settles O40: LOG commits the table LOGTAB. -/
theorem logResult : Obligations.LogResult :=
  fun _ hs hd => ⟨_, execLog_ok hs hd, commitPoint_results logTable hs hd⟩

/-- Settles O41: GAMMA commits the table of its code. -/
theorem gammaResult : Obligations.GammaResult :=
  fun _ hs hp hd => ⟨_, execGamma_ok hs hp hd, commitPoint_results _ hs hd⟩

/-- The table of THRESH as bytes (R148). -/
theorem ofNat_threshTable (t v : Nat) : (BitVec.ofNat 8 (threshTable t v) : Byte) = if t ≤ v then 255 else 0 := by
  rw [threshTable]; split <;> rfl

/-- Settles O42: THRESH commits its table of the grayscale view. -/
theorem threshResult : Obligations.ThreshResult := by
  intro s hs hp hd
  have hresults := commitGrayPoint_results (threshTable s.operands.thresh.toNat) hs hd
  simp only [ofNat_threshTable] at hresults
  exact ⟨_, execThresh_ok hs hp hd, hresults⟩

end Sys2Proof.Machine
end

section
/-! The commands that copy the image: each output sample is the source sample at the same place (R149, R203, R251,
R255). -/

namespace Sys2Proof.Machine

variable {s t : State}

/-! ## Copying a source buffer -/

/-- The output samples `out` are those of the source buffer, where that has been written. -/
def CopiesSource (s : State) (out : Nat → Nat → Nat → Byte) : Prop :=
  ∀ x < s.src.w, ∀ y < s.src.h, ∀ c < s.src.c, ∀ v,
    Memory.get? s.bmem (s.src.sampleAddr x y c) = some v → out x y c = v

/-- The destination holds every written byte of the source at the same place. -/
def HoldsCopy (s t : State) : Prop :=
  ∀ n < s.operands.srcLen.toNat, ∀ v, Memory.get? s.bmem (s.src.addr + n) = some v →
    Memory.get? t.bmem (s.operands.dstAddr.toNat + n) = some v

/-- Every index of a raster is the place of a sample in it (R78). -/
theorem exists_raster_index {w h c n : Nat} (hn : n < w * h * c) :
    ∃ x < w, ∃ y < h, ∃ k < c, n = (y * w + x) * c + k := by
  have hc : 0 < c := Nat.pos_of_ne_zero fun h => by simp [h] at hn
  have hw : 0 < w := Nat.pos_of_ne_zero fun h => by simp [h] at hn
  have hpix : n / c < w * h := Nat.div_lt_of_lt_mul (by rwa [Nat.mul_comm])
  exact ⟨n / c % w, Nat.mod_lt _ hw, n / c / w, Nat.div_lt_of_lt_mul hpix, n % c, Nat.mod_lt _ hc, by
    rw [Nat.div_add_mod', Nat.div_add_mod']⟩

/-- A buffer with the dimensions and the samples of the source is a copy of it (R78, R79). -/
theorem CopiesSource.holdsCopy {out : Nat → Nat → Nat → Byte} (hcopy : CopiesSource s out) (hs : SrcOk s)
    (ht : t.bmem = Memory.store s.bmem s.operands.dstAddr.toNat (raster s.src.w s.src.h s.src.c out)) :
    HoldsCopy s t := by
  obtain ⟨-, -, -, hlen, -⟩ := hs
  intro n hn v hv
  rw [hlen] at hn
  obtain ⟨x, hx, y, hy, c, hc, rfl⟩ := exists_raster_index hn
  have hout : out x y c = v := hcopy x hx y hy c hc v (by rwa [Buf.sampleAddr, Nat.add_assoc])
  rw [ht, Memory.get?_store, if_pos ⟨by omega, by rw [raster_length]; omega⟩, Nat.add_sub_cancel_left,
    raster_getElem? out hx hy hc, hout]

/-- A written sample stored again is the byte it was read from. -/
theorem sampleByte_toNat (v : Byte) : sampleByte v.toNat = v := by
  rw [sampleByte, BitVec.ofInt_natCast, BitVec.ofNat_toNat, BitVec.setWidth_eq]

/-! ## Kernels of one tap, and UNSHARP with amount 0 (R149, R203) -/

/-- No border mode moves an index inside the axis (R192). -/
theorem bidx_inside {i n : Nat} (h : i < n) (mode : Border) : bidx i n mode = some i := if_pos (by omega)

/-- The one tap of a kernel with k = 1 is the sample itself (R192 to R194). -/
theorem neighbourSum_one {b : Buf} (mode : Border) (wt : Nat → Int) {x y c : Nat} {v : Byte} (hx : x < b.w)
    (hy : y < b.h) (hv : Memory.get? s.bmem (b.sampleAddr x y c) = some v) :
    neighbourSum 1 wt (fun n => s.paddedSample b mode [x, y, c, n] c) x y = wt 0 * v.toNat := by
  simp [neighbourSum, State.paddedSample, padded, bidx_inside hx, bidx_inside hy, sample_written hv]

/-- The Gaussian kernel with k = 1 is the one coefficient 2^24, the number 1 in Q7.24 (R199). -/
theorem gcoef_one (sc : Nat) : gcoef 1 sc = [2 ^ 24] := by
  have hweights : gaussWeights 1 sc = [⟨unit128, unit128⟩] := rfl
  rw [gcoef, hweights]
  decide

/-- The number 1 in Q7.24 times a sample is quantised to the sample (R195). -/
theorem quantise_one_mul (v : Byte) : quantise (2 ^ 24 * v.toNat) = v.toNat := by
  have := v.isLt
  rw [quantise, clamp_eq_max_min _ (by decide), fdiv]
  omega

/-- The blur with k = 1 is the sample itself (R200, R203). -/
theorem blurred_one (mode : Border) (sc : Nat) {x y c : Nat} {v : Byte} (hx : x < s.src.w) (hy : y < s.src.h)
    (hv : Memory.get? s.bmem (s.src.sampleAddr x y c) = some v) :
    s.blurred ⟨s.src, mode, 1⟩ (gcoef 1 sc) x y c = v.toNat := by
  rw [State.blurred, State.correlate, neighbourSum_one mode _ hx hy hv, gcoef_one]
  exact quantise_one_mul v

/-- A sample that equals its blur is not changed by any amount, and no sample by the amount 0 (R201). -/
theorem sharpen_eq {ac : Nat} (v : Byte) {bl : Int} (h : ac = 0 ∨ bl = v.toNat) : sharpen ac v.toNat bl = v.toNat := by
  have := v.isLt
  have hzero : ac * ((v.toNat : Int) - bl) = 0 := by rcases h with h | h <;> simp [h]
  rw [sharpen, hzero, clamp_eq_max_min _ (by decide), fdiv]
  omega

theorem commitBox_copies (hs : SrcOk s) (mode : Border) : HoldsCopy s (commitBox ⟨s.src, mode, 1⟩ s).succeed := by
  refine CopiesSource.holdsCopy (fun x hx y hy c _ v hv => ?_) hs rfl
  have hmean : fdiv (2 * (1 * (v.toNat : Int)) + (1 : Nat) * (1 : Nat)) (2 * (1 : Nat) * (1 : Nat)) = v.toNat := by
    rw [fdiv]; omega
  rw [State.boxSum, neighbourSum_one mode _ hx hy hv, hmean, sampleByte_toNat]

theorem commitGauss_copies (hs : SrcOk s) (mode : Border) (sc : Nat) :
    HoldsCopy s (commitGauss ⟨s.src, mode, 1⟩ (gcoef 1 sc) s).succeed := by
  refine CopiesSource.holdsCopy (fun x hx y hy c _ v hv => ?_) hs rfl
  rw [blurred_one mode sc hx hy hv, sampleByte_toNat]

theorem commitUnsharp_copies (hs : SrcOk s) (mode : Border) {k ac : Nat} (sc : Nat) (h : k = 1 ∨ ac = 0) :
    HoldsCopy s (commitUnsharp ⟨s.src, mode, k⟩ (gcoef k sc) ac s).succeed := by
  refine CopiesSource.holdsCopy (fun x hx y hy c _ v hv => ?_) hs rfl
  rw [sample_written hv, sharpen_eq v, sampleByte_toNat]
  exact h.symm.imp_right fun hk => by rw [hk, blurred_one mode sc hx hy hv]

/-! ## GAMMA with code 256 (R149) -/

theorem commitPoint_gamma_copies (hs : SrcOk s) : HoldsCopy s (commitPoint (gammaTable 256) s.src s).succeed := by
  refine CopiesSource.holdsCopy (fun x _ y _ c _ v hv => ?_) hs rfl
  have := v.isLt
  rw [sample_written hv, gammaTable_256 (by omega), BitVec.ofNat_toNat, BitVec.setWidth_eq]

/-! ## Resizing to the size of the source (R251, R255) -/

theorem commitResizeNn_copies (hs : SrcOk s) : HoldsCopy s (commitResizeNn s.src s.src.w s.src.h s).succeed := by
  refine CopiesSource.holdsCopy (fun x _ y _ c _ v hv => ?_) hs rfl
  rw [Nat.mul_div_cancel _ hs.width_pos, Nat.mul_div_cancel _ hs.height_pos, sample_written hv, BitVec.ofNat_toNat,
    BitVec.setWidth_eq]

/-- At identity scale an axis maps each coordinate to itself, with weight 0 for the next (R253). -/
theorem axisMap_identity {o n : Nat} (ho : o < n) : (axisMap o n n).i0 = o ∧ (axisMap o n n).frac = 0 := by
  have hnum : (2 * (o : Int) + 1) * n - n = o * (2 * n) := by ring
  have hfloor : fdiv (o * (2 * (n : Int))) (2 * n) = o := Int.mul_ediv_cancel _ (by omega)
  simp only [axisMap, hnum, hfloor, clamp_eq_max_min (o : Int) (show (0 : Int) ≤ n - 1 by omega)]
  omega

/-- A blend with both weights 0 is the first sample (R254). -/
theorem blend_zero {dx dy : Int} (hx : 0 < dx) (hy : 0 < dy) (s00 s10 s01 s11 : Nat) :
    fdiv (2 * blendNum dx dy 0 0 s00 s10 s01 s11 + dx * dy) (2 * dx * dy) = s00 := by
  have hnum : 2 * blendNum dx dy 0 0 s00 s10 s01 s11 + dx * dy = dx * dy * (2 * s00 + 1) := by rw [blendNum]; ring
  rw [hnum, show 2 * dx * dy = dx * dy * 2 by ring, fdiv, Int.mul_ediv_mul_of_pos _ _ (mul_pos hx hy)]
  omega

theorem commitResizeBl_copies (hs : SrcOk s) : HoldsCopy s (commitResizeBl s.src s.src.w s.src.h s).succeed := by
  refine CopiesSource.holdsCopy (fun x hx y hy c _ v hv => ?_) hs rfl
  have hw := hs.width_pos
  have hh := hs.height_pos
  obtain ⟨hx0, hxf⟩ := axisMap_identity hx
  obtain ⟨hy0, hyf⟩ := axisMap_identity hy
  simp only [State.bilinear, hxf, hyf, hx0, hy0]
  rw [blend_zero (by omega) (by omega), sample_written hv, sampleByte_toNat]

/-! ## The commands -/

/-- An outcome has one next state. -/
theorem HoldsCopy.of_outcome {r : Host.Outcome State Fault Refusal} {u : State} (hu : HoldsCopy s u) (hr : r = .next u)
    (ht : r = .next t) : HoldsCopy s t := by
  cases hr.symm.trans ht
  exact hu

theorem box_copies (hpass : ChecksPass .box s) (hexec : exec .box s = .next t) (hk : s.operands.ksize.toNat = 1) :
    HoldsCopy s t := by
  obtain ⟨hsrc, ⟨hborder, hksize⟩, hd, -⟩ := hpass
  obtain ⟨m, hm⟩ := Border.ofBits_exists hborder
  exact HoldsCopy.of_outcome (hk ▸ commitBox_copies (hsrc rfl) m) (execBox_ok (hsrc rfl) hm hksize (hd rfl)) hexec

theorem gauss_copies (hpass : ChecksPass .gauss s) (hexec : exec .gauss s = .next t)
    (hk : s.operands.ksize.toNat = 1) : HoldsCopy s t := by
  obtain ⟨hsrc, ⟨hborder, hksize, hsigma⟩, hd, -⟩ := hpass
  obtain ⟨m, hm⟩ := Border.ofBits_exists hborder
  exact HoldsCopy.of_outcome (hk ▸ commitGauss_copies (hsrc rfl) m _)
    (execGauss_ok (hsrc rfl) hm hksize hsigma (hd rfl)) hexec

theorem unsharp_copies (hpass : ChecksPass .unsharp s) (hexec : exec .unsharp s = .next t)
    (h : s.operands.ksize.toNat = 1 ∨ s.operands.amount.toNat = 0) : HoldsCopy s t := by
  obtain ⟨hsrc, ⟨hborder, hksize, hsigma, hamount⟩, hd, -⟩ := hpass
  obtain ⟨m, hm⟩ := Border.ofBits_exists hborder
  exact HoldsCopy.of_outcome (commitUnsharp_copies (hsrc rfl) m _ h)
    (execUnsharp_ok (hsrc rfl) hm hksize hsigma hamount (hd rfl)) hexec

theorem gamma_copies (hpass : ChecksPass .gamma s) (hexec : exec .gamma s = .next t)
    (hg : s.operands.gamma.toNat = 256) : HoldsCopy s t := by
  obtain ⟨hsrc, hp, hd, -⟩ := hpass
  exact HoldsCopy.of_outcome (hg ▸ commitPoint_gamma_copies (hsrc rfl)) (execGamma_ok (hsrc rfl) hp (hd rfl)) hexec

section
variable (hw : s.operands.newW.toNat = s.src.w) (hh : s.operands.newH.toNat = s.src.h)
include hw hh

theorem resizeNn_copies (hpass : ChecksPass .resizeNn s) (hexec : exec .resizeNn s = .next t) : HoldsCopy s t := by
  obtain ⟨hsrc, ⟨hnw, hnh⟩, hd, -⟩ := hpass
  refine HoldsCopy.of_outcome ?_ (execResizeNn_ok (hsrc rfl) hnw hnh (hd rfl)) hexec
  rw [hw, hh]
  exact commitResizeNn_copies (hsrc rfl)

theorem resizeBl_copies (hpass : ChecksPass .resizeBl s) (hexec : exec .resizeBl s = .next t) : HoldsCopy s t := by
  obtain ⟨hsrc, ⟨hnw, hnh⟩, hd, -⟩ := hpass
  refine HoldsCopy.of_outcome ?_ (execResizeBl_ok (hsrc rfl) hnw hnh (hd rfl)) hexec
  rw [hw, hh]
  exact commitResizeBl_copies (hsrc rfl)

end

/-- Settles O54: each of the commands commits a buffer of the source's size with the source's samples. -/
theorem identityCommandsCopyTheSource : Obligations.IdentityCommandsCopyTheSource := by
  intro i s t hpass hexec h
  simp only [List.mem_cons, List.not_mem_nil, or_false] at h
  rcases h with ⟨rfl | rfl | rfl, hk⟩ | ⟨rfl, ha⟩ | ⟨rfl, hg⟩ | ⟨rfl | rfl, hw, hh⟩
  · exact box_copies hpass hexec (congrArg BitVec.toNat hk)
  · exact gauss_copies hpass hexec (congrArg BitVec.toNat hk)
  · exact unsharp_copies hpass hexec (.inl (congrArg BitVec.toNat hk))
  · exact unsharp_copies hpass hexec (.inr (congrArg BitVec.toNat ha))
  · exact gamma_copies hpass hexec (congrArg BitVec.toNat hg)
  · exact resizeNn_copies (congrArg BitVec.toNat hw) (congrArg BitVec.toNat hh) hpass hexec
  · exact resizeBl_copies (congrArg BitVec.toNat hw) (congrArg BitVec.toNat hh) hpass hexec

end Sys2Proof.Machine
end


section
/-! HIST: the entries of HMEM are the counts of the grayscale view, and sum to the number of pixels (R170, R171). -/

namespace Sys2Proof.Machine

variable {s t : State}

/-- The numbers below n that meet p, counted in a list and as a finite set. -/
theorem countP_range_eq_card (n : Nat) (p : Nat → Bool) :
    (List.range n).countP p = ((Finset.range n).filter fun i => p i = true).card := by
  rw [List.countP_eq_length_filter, ← List.toFinset_range, ← List.toFinset_filter,
    List.toFinset_card_of_nodup (List.nodup_range.filter _)]

/-! ## The grayscale view as a list -/

theorem grayList_length (s : State) (b : Buf) : (s.grayList b).length = b.w * b.h := by simp [State.grayList]

theorem grayList_lt {b : Buf} {v : Nat} (hv : v ∈ s.grayList b) : v < 256 := by
  obtain ⟨n, -, rfl⟩ := List.mem_map.mp hv
  exact Nat.lt_succ_of_le (grayAt_le ..)

/-- The row-major numbers of the pixels of a w x h plane stand for their coordinates (R78). -/
theorem card_filter_rowMajor (w h : Nat) (p : Nat → Nat → Bool) :
    ((Finset.range (w * h)).filter fun n => p (n % w) (n / w) = true).card =
      ((Finset.range w ×ˢ Finset.range h).filter fun q => p q.1 q.2 = true).card := by
  have pixel_of_lt {n : Nat} (hn : n < w * h) : n % w < w ∧ n / w < h :=
    ⟨Nat.mod_lt _ (Nat.pos_of_mul_pos_right (Nat.zero_lt_of_lt hn)), Nat.div_lt_of_lt_mul hn⟩
  have mod_div {x : Nat} (hx : x < w) (y : Nat) : (y * w + x) % w = x ∧ (y * w + x) / w = y :=
    ⟨Nat.mul_add_mod_of_lt hx, by
      rw [Nat.add_comm, Nat.add_mul_div_right _ _ (by omega), Nat.div_eq_of_lt hx, Nat.zero_add]⟩
  refine Finset.card_bij' (fun n _ => (n % w, n / w)) (fun q _ => q.2 * w + q.1) (fun n hn => ?_) (fun q hq => ?_)
    (fun n _ => Nat.div_add_mod' ..) (fun q hq => ?_)
  · obtain ⟨hlt, hp⟩ := Finset.mem_filter.mp hn
    obtain ⟨hx, hy⟩ := pixel_of_lt (Finset.mem_range.mp hlt)
    simp [hx, hy, hp]
  all_goals
    simp only [Finset.mem_filter, Finset.mem_product, Finset.mem_range] at hq
    obtain ⟨⟨hx, hy⟩, hp⟩ := hq
    obtain ⟨hmod, hdiv⟩ := mod_div hx q.2
  · have hlt : q.2 * w + q.1 < w * h := by simpa using raster_index_lt hx hy Nat.one_pos
    simp [hmod, hdiv, hlt, hp]
  · simp only [hmod, hdiv]

/-- HIST counts the pixels with gray value i (R170). -/
theorem count_grayList (s : State) (i : Nat) :
    (s.grayList s.src).count i =
      ((Finset.range s.src.w ×ˢ Finset.range s.src.h).filter fun p => sourceGray s p.1 p.2 = i).card := by
  rw [State.grayList, List.count, List.countP_map, countP_range_eq_card]
  refine (card_filter_rowMajor s.src.w s.src.h fun x y => sourceGray s x y == i).trans ?_
  simp only [beq_iff_eq]

/-- A source has fewer pixels than a 32-bit counter can count (R124). -/
theorem SrcOk.pixels_lt (hs : SrcOk s) : s.src.w * s.src.h < 2 ^ 32 :=
  (Nat.mul_le_mul hs.width_le hs.height_le).trans_lt (by decide)

/-! ## The completion -/

theorem hmemCount_of_get? {i : Nat} {v : Word} (h : Memory.get? t.hmem i = some v) : hmemCount t i = v.toNat := by
  rw [hmemCount, State.wordAt, h, Option.getD_some]

/-- Each count of HIST fits its entry (R50, R170). -/
theorem hmemCount_of_hist (hs : SrcOk s) (hexec : exec .hist s = .next t) {i : Nat} (hi : i < 256) :
    hmemCount t i = (s.grayList s.src).count i := by
  cases (execHist_ok hs).symm.trans hexec
  have hcount : (s.grayList s.src).count i < 2 ^ 32 :=
    (List.count_le_length.trans_eq (grayList_length s s.src)).trans_lt hs.pixels_lt
  rw [hmemCount_of_get? (get?_table s.hmem 256 _ hi), BitVec.toNat_ofNat, Nat.mod_eq_of_lt hcount]

/-- Settles O45: HIST commits the table of the counts. -/
theorem histResult : Obligations.HistResult :=
  fun s hs => ⟨_, execHist_ok hs, rfl, fun i hi => by rw [← count_grayList]; exact get?_table s.hmem 256 _ hi⟩

/-- Settles O46: every pixel is counted at its gray value, which is below 256. -/
theorem histogramSumsToThePixelCount : Obligations.HistogramSumsToThePixelCount := by
  intro s t hs hexec
  have ⟨_, ⟨hw, _⟩, ⟨hh, _⟩, _⟩ := hs
  refine ⟨?_, Nat.mul_pos hw hh⟩
  calc ∑ i ∈ Finset.range 256, hmemCount t i
      = ∑ i ∈ Finset.range 256, (s.grayList s.src : Multiset Nat).count i :=
        Finset.sum_congr rfl fun i hi =>
          (hmemCount_of_hist hs hexec (Finset.mem_range.mp hi)).trans (Multiset.coe_count ..).symm
    _ = (s.grayList s.src).length :=
        Multiset.sum_count_eq_card fun v hv => Finset.mem_range.mpr (grayList_lt hv)
    _ = s.src.w * s.src.h := grayList_length s s.src

end Sys2Proof.Machine
end

section
/-! OTSU: the integer comparison of R174 orders the thresholds by their between-class variance, and the fold of R175
finds the first of the largest (R172 to R176). -/

namespace Sys2Proof.Machine

variable {s : State} {t : Nat}

/-! ## The sums of R173 over the histogram -/

theorem histogram_eq (s : State) : s.histogram = (List.range 256).map (hmemCount s) := rfl

theorem mass_map_range (h : Nat → Nat) (n : Nat) : mass ((List.range n).map h) = ∑ i ∈ Finset.range n, h i := by
  rw [mass]; rfl

theorem moment_map_range (h : Nat → Nat) (n : Nat) :
    moment ((List.range n).map h) = ∑ i ∈ Finset.range n, i * h i := by
  induction n with
  | zero => rfl
  | succ n ih =>
    rw [Finset.sum_range_succ, ← ih]
    simp [moment, List.range_succ, List.zipIdx_append]

theorem histogram_take (s : State) (ht : t < 256) :
    s.histogram.take (t + 1) = (List.range (t + 1)).map (hmemCount s) := by
  rw [histogram_eq, ← List.map_take, List.take_range, Nat.min_eq_left ht]

theorem massTo_histogram (s : State) (ht : t < 256) :
    massTo s.histogram t = ∑ i ∈ Finset.range (t + 1), hmemCount s i := by
  rw [massTo, histogram_take s ht, mass_map_range]

theorem momentTo_histogram (s : State) (ht : t < 256) :
    momentTo s.histogram t = ∑ i ∈ Finset.range (t + 1), i * hmemCount s i := by
  rw [momentTo, histogram_take s ht, moment_map_range]

theorem massTo_le_mass (h : List Nat) (t : Nat) : massTo h t ≤ mass h :=
  (List.take_sublist _ h).sum_le_sum fun _ _ => Nat.zero_le _

theorem classProduct_cast (h : List Nat) (t : Nat) :
    (classProduct h t : ℚ) = massTo h t * (mass h - massTo h t) := by
  rw [classProduct, Nat.cast_mul, Nat.cast_sub (massTo_le_mass h t)]

/-- A class is empty exactly where the product of R174 is 0. -/
theorem classProduct_eq_zero_iff (h : List Nat) (t : Nat) :
    classProduct h t = 0 ↔ (massTo h t : ℚ) = 0 ∨ (mass h - massTo h t : ℚ) = 0 := by
  rw [← mul_eq_zero, ← classProduct_cast, Nat.cast_eq_zero]

/-! ## The between-class variance (R173, R174) -/

/-- The variance of R173 from the sums that the model takes. -/
def splitVariance (h : List Nat) (t : Nat) : ℚ :=
  if (massTo h t : ℚ) = 0 ∨ (mass h - massTo h t : ℚ) = 0 then 0
  else massTo h t / mass h * ((mass h - massTo h t) / mass h) *
    (momentTo h t / massTo h t - (moment h - momentTo h t) / (mass h - massTo h t)) ^ 2

theorem betweenClassVariance_eq_splitVariance (s : State) (ht : t < 256) :
    betweenClassVariance (hmemCount s) t = splitVariance s.histogram t := by
  unfold splitVariance
  rw [massTo_histogram s ht, momentTo_histogram s ht, histogram_eq, mass_map_range, moment_map_range]
  push_cast
  rfl

theorem varDen_pos (h : List Nat) (t : Nat) : 0 < varDen h t := by
  unfold varDen; split <;> omega

/-- V(t) of R174 is the variance times N squared. -/
theorem splitVariance_eq {h : List Nat} (hne : mass h ≠ 0) (t : Nat) :
    splitVariance h t = (varNum h t / varDen h t : ℚ) / (mass h : ℚ) ^ 2 := by
  have hmass : (mass h : ℚ) ≠ 0 := Nat.cast_ne_zero.mpr hne
  unfold splitVariance varNum varDen
  by_cases hp : classProduct h t = 0
  · rw [if_pos ((classProduct_eq_zero_iff h t).mp hp), if_pos hp, Int.cast_zero, zero_div, zero_div]
  · have hclasses := mt (classProduct_eq_zero_iff h t).mpr hp
    rw [if_neg hclasses, if_neg hp, if_neg hp, Int.cast_natCast, classProduct_cast]
    obtain ⟨h0, h1⟩ := not_or.mp hclasses
    push_cast
    field_simp
    ring

/-- The comparison of R174 is that of the variances. -/
theorem varGreater_eq_true {h : List Nat} (hne : mass h ≠ 0) (t u : Nat) :
    varGreater h t u = true ↔ splitVariance h u < splitVariance h t := by
  have hmass : (0 : ℚ) < (mass h : ℚ) ^ 2 := by positivity
  have hden (v : Nat) : (0 : ℚ) < varDen h v := Int.cast_pos.mpr (varDen_pos h v)
  rw [splitVariance_eq hne, splitVariance_eq hne, div_lt_div_iff_of_pos_right hmass,
    div_lt_div_iff₀ (hden u) (hden t), varGreater, decide_eq_true_eq, gt_iff_lt]
  norm_cast

/-! ## The choice of the threshold (R175, R176) -/

section
variable {α : Type} [LinearOrder α]

/-- b is the smallest of 0..n at which f is largest. -/
def IsFirstMax (f : Nat → α) (n b : Nat) : Prop := b ≤ n ∧ (∀ u ≤ n, f u ≤ f b) ∧ ∀ u < b, f u < f b

theorem isFirstMax_zero (f : Nat → α) : IsFirstMax f 0 0 := ⟨le_rfl, fun u hu => by rw [Nat.le_zero.mp hu], nofun⟩

theorem IsFirstMax.succ_of_lt {f : Nat → α} {n b : Nat} (h : IsFirstMax f n b) (hlt : f b < f (n + 1)) :
    IsFirstMax f (n + 1) (n + 1) := by
  obtain ⟨-, hmax, -⟩ := h
  have hbelow : ∀ u < n + 1, f u < f (n + 1) := fun u hu => (hmax u (Nat.le_of_lt_succ hu)).trans_lt hlt
  refine ⟨le_rfl, fun u hu => ?_, hbelow⟩
  rcases hu.eq_or_lt with rfl | hu
  · exact le_rfl
  · exact (hbelow u hu).le

theorem IsFirstMax.succ_of_le {f : Nat → α} {n b : Nat} (h : IsFirstMax f n b) (hle : f (n + 1) ≤ f b) :
    IsFirstMax f (n + 1) b := by
  obtain ⟨hb, hmax, hfirst⟩ := h
  refine ⟨Nat.le_succ_of_le hb, fun u hu => ?_, hfirst⟩
  rcases hu.eq_or_lt with rfl | hu
  · exact hle
  · exact hmax u (Nat.le_of_lt_succ hu)

/-- A fold that replaces its choice by every larger value finds the first of the largest. -/
theorem foldl_isFirstMax (f : Nat → α) (gt : Nat → Nat → Bool) (n : Nat)
    (hgt : ∀ t ≤ n, ∀ u ≤ n, gt t u = true ↔ f u < f t) :
    IsFirstMax f n ((List.range' 1 n).foldl (fun best t => if gt t best then t else best) 0) := by
  induction n with
  | zero => exact isFirstMax_zero f
  | succ n ih =>
    have hprev := ih fun t ht u hu => hgt t (Nat.le_succ_of_le ht) u (Nat.le_succ_of_le hu)
    rw [List.range'_1_concat, List.foldl_append, List.foldl_cons, List.foldl_nil, Nat.add_comm 1 n]
    have hstep := hgt (n + 1) le_rfl _ (Nat.le_succ_of_le hprev.1)
    split
    case isTrue hg => exact hprev.succ_of_lt (hstep.mp hg)
    case isFalse hg => exact hprev.succ_of_le (not_lt.mp (mt hstep.mpr hg))

end

/-- The choice of R175 is the smallest threshold of maximal variance. -/
theorem bestSplit_isFirstMax (hne : ¬HistogramEmpty s) :
    IsFirstMax (betweenClassVariance (hmemCount s)) 255 (bestSplit s.histogram) := by
  refine foldl_isFirstMax _ (varGreater s.histogram) 255 fun t ht u hu => ?_
  rw [betweenClassVariance_eq_splitVariance s (Nat.lt_succ_of_le ht),
    betweenClassVariance_eq_splitVariance s (Nat.lt_succ_of_le hu)]
  exact varGreater_eq_true (mt (mass_histogram_eq_zero s).mp hne) t u

/-- v is the only occupied bin of the histogram (R176). -/
def OnlyBin (s : State) (v : Nat) : Prop := v < 256 ∧ ∀ i < 256, hmemCount s i ≠ 0 ↔ i = v

theorem countP_histogram_eq_one (s : State) : s.histogram.countP (· ≠ 0) = 1 ↔ ∃ v, OnlyBin s v := by
  rw [histogram_eq, List.countP_map, countP_range_eq_card, Finset.card_eq_one]
  refine exists_congr fun v => ?_
  simp only [Finset.ext_iff, Finset.mem_filter, Finset.mem_range, Finset.mem_singleton, OnlyBin, Function.comp_apply,
    decide_eq_true_eq]
  constructor
  · intro h
    exact ⟨((h v).mpr rfl).1, fun i hi => ⟨fun hne => (h i).mp ⟨hi, hne⟩, fun hiv => ((h i).mpr hiv).2⟩⟩
  · rintro ⟨hv, hocc⟩ i
    exact ⟨fun ⟨hi, hne⟩ => (hocc i hi).mp hne, fun hiv => ⟨hiv ▸ hv, (hocc i (hiv ▸ hv)).mpr hiv⟩⟩

theorem OnlyBin.findIdx_eq {v : Nat} (h : OnlyBin s v) : s.histogram.findIdx (· ≠ 0) = v := by
  obtain ⟨hv, hocc⟩ := h
  rw [histogram_eq, List.findIdx_eq (by simpa using hv)]
  simp only [List.getElem_map, List.getElem_range, decide_eq_true_eq, decide_eq_false_iff_not]
  exact ⟨(hocc v hv).mpr rfl, fun j hj hne => hj.ne ((hocc j (hj.trans hv)).mp hne)⟩

theorem OnlyBin.otsuThreshold_eq {v : Nat} (h : OnlyBin s v) : otsuThreshold s.histogram = v := by
  rw [otsuThreshold, if_pos ((countP_histogram_eq_one s).mpr ⟨v, h⟩), h.findIdx_eq]

theorem otsuThreshold_eq_bestSplit (h : ¬∃ v, OnlyBin s v) : otsuThreshold s.histogram = bestSplit s.histogram :=
  if_neg (mt (countP_histogram_eq_one s).mp h)

theorem otsuThreshold_lt (hne : ¬HistogramEmpty s) : otsuThreshold s.histogram < 256 := by
  by_cases h : ∃ v, OnlyBin s v
  · obtain ⟨v, hv⟩ := h
    rw [hv.otsuThreshold_eq]; exact hv.1
  · rw [otsuThreshold_eq_bestSplit h]; exact Nat.lt_succ_of_le (bestSplit_isFirstMax hne).1

theorem otsuResult_lt (hne : ¬HistogramEmpty s) : s.otsuResult s.histogram < 256 := by
  unfold State.otsuResult; split
  · exact otsuThreshold_lt hne
  · exact BitVec.isLt _

/-- Settles O47: the one occupied bin, or else the choice of R175. -/
theorem otsuResult : Obligations.OtsuResult := by
  intro s hne
  refine ⟨_, _, execOtsu_ok hne, rfl, otsuResult_lt hne, rfl, fun hw v hv hocc => ?_, fun hw hmany => ?_⟩
  · rw [State.otsuResult_written hw]
    exact OnlyBin.otsuThreshold_eq ⟨hv, hocc⟩
  · rw [State.otsuResult_written hw, otsuThreshold_eq_bestSplit hmany]
    obtain ⟨-, hmax, hfirst⟩ := bestSplit_isFirstMax hne
    exact ⟨fun u hu => hmax u (Nat.le_of_lt_succ hu), hfirst⟩

end Sys2Proof.Machine
end

section
/-! The index map of the border modes and the padded sample (R110, R192, R193). -/

namespace Sys2Proof.Machine

/-! ## The index map (R192) -/

section
variable {i : Int} {n : Nat}

theorem bidx_replicate_below (hn : 1 ≤ n) (h : i < 0) : bidx i n .replicate = some 0 := by
  rw [bidx, if_neg (by omega)]
  rw [clamp_eq_max_min i (by omega)]
  congr 1
  omega

theorem bidx_replicate_above (hn : 1 ≤ n) (h : n ≤ i) : bidx i n .replicate = some (n - 1) := by
  rw [bidx, if_neg (by omega)]
  rw [clamp_eq_max_min i (by omega)]
  congr 1
  omega

theorem bidx_zero_outside (h : i < 0 ∨ n ≤ i) : bidx i n .zero = none := if_neg (by omega)

/-- REFLECT depends on the place of the index within one period only; inside the axis that place is the index itself. -/
theorem bidx_reflect (i : Int) {n : Nat} (hn : 1 ≤ n) :
    bidx i n .reflect =
      if i % (2 * n) < n then some (i % (2 * n)).toNat else some (2 * n - 1 - i % (2 * n)).toNat := by
  rw [bidx]
  split
  case isTrue h => rw [Int.emod_eq_of_lt h.1 (by omega), if_pos h.2]
  case isFalse => rfl

theorem bidx_reflect_below (h : -n ≤ i) (h0 : i < 0) : bidx i n .reflect = some (-i - 1).toNat := by
  have hmod : i % (2 * n) = i + 2 * n := by
    rw [← Int.add_emod_right, Int.emod_eq_of_lt (by omega) (by omega)]
  rw [bidx_reflect i (by omega), hmod, if_neg (by omega)]
  congr 2
  omega

theorem bidx_reflect_above (hn : 1 ≤ n) (h : n ≤ i) (h2 : i < 2 * n) :
    bidx i n .reflect = some (2 * n - 1 - i).toNat := by
  rw [bidx_reflect i hn, Int.emod_eq_of_lt (by omega) h2, if_neg (by omega)]

theorem bidx_reflect_periodic (i : Int) (hn : 1 ≤ n) : bidx (i + 2 * n) n .reflect = bidx i n .reflect := by
  rw [bidx_reflect _ hn, bidx_reflect _ hn, Int.add_emod_right]

/-- The modes REFLECT and REPLICATE mark no index ZERO (R192). -/
theorem bidx_isSome {mode : Border} (hmode : mode = .reflect ∨ mode = .replicate) (i : Int) (n : Nat) :
    (bidx i n mode).isSome := by
  unfold bidx
  rcases hmode with rfl | rfl
  · split
    · rfl
    · dsimp only; split <;> rfl
  · split <;> rfl

end

/-- Settles O37: each mode has its own case outside the axis. -/
theorem borderIndexMap : Obligations.BorderIndexMap := by
  refine ⟨by decide, fun i n hn => ⟨fun mode h0 h1 => if_pos ⟨h0, h1⟩, bidx_replicate_below hn,
    bidx_replicate_above hn, bidx_zero_outside, bidx_reflect_below, bidx_reflect_above hn,
    bidx_reflect_periodic i hn, fun mode m => bidx_lt hn⟩⟩

/-! ## The padded sample (R193) -/

section
variable {w h : Nat} {mode : Border} {x y : Int}

theorem padded_of_some (f : Nat → Nat → Nat) {xi yi : Nat} (hx : bidx x w mode = some xi)
    (hy : bidx y h mode = some yi) : padded w h mode f x y = f xi yi := by
  simp only [padded, hx, hy]

theorem padded_of_none (f : Nat → Nat → Nat) (hz : bidx x w mode = none ∨ bidx y h mode = none) :
    padded w h mode f x y = 0 := by
  unfold padded
  split
  next hx hy => simp [hx, hy] at hz
  next => rfl

end

/-- Settles O38: both planes are padded by one definition. -/
theorem paddedSample : Obligations.PaddedSample :=
  fun _ _ _ _ _ _ _ => ⟨fun _ _ hx hy => ⟨padded_of_some _ hx hy, padded_of_some _ hx hy⟩,
    fun hz => ⟨padded_of_none _ hz, padded_of_none _ hz⟩⟩

end Sys2Proof.Machine
end

section
/-! What the convolution engine leaves behind: the correlation, rounded and clamped (R194 to R201). -/

namespace Sys2Proof.Machine

variable {s : State}

/-! ## Rounding and clamping (R195, R198, R201) -/

/-- The rounding of a sum in Q7.24 (R195). -/
theorem fdiv_half_up_q24 (acc : Int) : fdiv (acc + 2 ^ 23) (2 ^ 24) = ⌊(acc : ℚ) / 2 ^ 24 + 1 / 2⌋ := by
  rw [fdiv_eq_floor _ (by decide)]
  congr 1
  push_cast
  ring

/-- Settles O48: the quantisation is a clamped floor division. -/
theorem outputQuantisation : Obligations.OutputQuantisation := fun acc => by
  rw [quantise, clamp_eq_max_min _ (by decide), fdiv_half_up_q24]

/-- A quantised sum as a sample. -/
theorem sampleByte_quantise (acc : Int) : sampleByte (quantise acc) = toSample ⌊(acc : ℚ) / 2 ^ 24 + 1 / 2⌋ := by
  rw [quantise, sampleByte_clamp, fdiv_half_up_q24]

/-- A quantised sum is the value of the sample that stores it. -/
theorem toNat_toSample_floor (acc : Int) :
    ((toSample ⌊(acc : ℚ) / 2 ^ 24 + 1 / 2⌋).toNat : Int) = quantise acc := by
  rw [toSample, ← outputQuantisation, BitVec.toNat_ofInt]
  have hq : 0 ≤ quantise acc ∧ quantise acc ≤ 255 := by rw [outputQuantisation]; omega
  omega

/-- The sharpened sample, rounded and clamped (R201). -/
theorem sampleByte_sharpen (ac : Nat) (inp bl : Int) :
    sampleByte (sharpen ac inp bl) = toSample ⌊(inp : ℚ) + (ac : ℚ) / 256 * (inp - bl) + 1 / 2⌋ := by
  rw [sharpen, sampleByte_clamp, fdiv_eq_floor _ (by decide)]
  congr 2
  push_cast
  ring

/-! ## The sums over the neighbourhood (R194, R198) -/

/-- The blur is the quantised double sum with the listed coefficients (R194, R200). -/
theorem blurred_eq (s : State) (o : ConvOperands) (coefs : List Nat) (x y c : Nat) :
    s.blurred o coefs x y c = quantise (correlationSum o.k (fun n => (coefs.getD n 0 : Int))
      (fun n => s.paddedSample o.src o.mode [x, y, c, n] c) x y) := by
  have hcoef : (fun n => (coefs.map Int.ofNat).getD n 0) = fun n => (coefs.getD n 0 : Int) :=
    funext fun n => List.getD_map (f := Int.ofNat) ..
  rw [State.blurred, State.correlate, neighbourSum_eq, hcoef]

/-- The sum of a neighbourhood is not negative and at most 255 times the number of its taps (R198). -/
theorem boxSum_bounds (s : State) (b : Buf) (m : Border) (k x y c : Nat) :
    0 ≤ s.boxSum b m k x y c ∧ s.boxSum b m k x y c ≤ 255 * (k * k : Nat) := by
  rw [State.boxSum, neighbourSum, sum_map_range]
  simp only [one_mul]
  refine ⟨Finset.sum_nonneg fun n _ => Int.natCast_nonneg _, ?_⟩
  refine (Finset.sum_le_card_nsmul _ _ 255 fun n _ => ?_).trans_eq ?_
  · exact Int.ofNat_le.mpr (padded_le (fun _ _ => sample_le ..) _ _)
  · rw [Finset.card_range, nsmul_eq_mul, mul_comm]

/-- The mean of BOX as a sample: its rounding stays in 0..255 (R198). -/
theorem sampleByte_mean (s : State) (b : Buf) (m : Border) {k : Nat} (hk : 0 < k) (x y c : Nat) :
    sampleByte (fdiv (2 * s.boxSum b m k x y c + k * k) (2 * k * k)) = toSample
      ⌊(correlationSum k (fun _ => 1) (fun n => s.paddedSample b m [x, y, c, n] c) x y : ℚ) / (k : ℚ) ^ 2 + 1 / 2⌋ := by
  have hpos : (0 : Int) < k * k := by positivity
  obtain ⟨h0, h1⟩ := boxSum_bounds s b m k x y c
  rw [Nat.cast_mul] at h1
  have hmean0 : 0 ≤ fdiv (2 * s.boxSum b m k x y c + k * k) (2 * (k * k)) := Int.ediv_nonneg (by omega) (by omega)
  have hmean1 : fdiv (2 * s.boxSum b m k x y c + k * k) (2 * (k * k)) < 256 :=
    Int.ediv_lt_of_lt_mul (by omega) (by omega)
  rw [mul_assoc, sampleByte_eq_toSample hmean0 (Int.lt_add_one_iff.mp hmean1), fdiv_eq_round _ hpos, State.boxSum,
    neighbourSum_eq, Int.cast_mul, Int.cast_natCast, ← sq]

/-! ## The completions -/

/-- An output sample of CONV (R194, R197). -/
theorem convSample_eq (s : State) (o : ConvOperands) (x y c : Nat) :
    s.convSample o (s.kernel o.k) (s.kernelUnwritten o.k) x y c =
      let sum : (Nat → Int) → Int := fun coef =>
        correlationSum o.k coef (fun n => s.paddedSample o.src o.mode [x, y, c, n] c) x y
      if sum (fun n => if Memory.get? s.kmem n = none then 1 else 0) = 0 then
        toSample ⌊(sum (fun n => (s.wordAt s.kmem [n] n).toInt) : ℚ) / 2 ^ 24 + 1 / 2⌋
      else Config.freeByte s.draws [x, y, c] := by
  rw [State.convSample, State.kernel, State.kernelUnwritten, State.correlate_map_range, State.correlate_map_range,
    sampleByte_quantise]

/-- Settles O49: the kernel and the weights of its unwritten entries are lists of taps. -/
theorem convResult : Obligations.ConvResult := fun s m hs hm hk hd =>
  ⟨_, execConv_ok hs hm hk hd, rfl, produce_holds hs hd hs.width_le hs.height_le hs.1 rfl rfl fun x _ y _ c _ =>
    convSample_eq s ⟨s.src, m, s.operands.ksize.toNat⟩ x y c⟩

theorem KsizeOk.pos (hk : KsizeOk s) : 0 < s.operands.ksize.toNat := by
  simp only [KsizeOk, List.mem_cons, List.not_mem_nil, or_false] at hk
  omega

/-- Settles O50: the mean of samples is a sample. -/
theorem boxResult : Obligations.BoxResult := fun s m hs hm hk hd =>
  ⟨_, execBox_ok hs hm hk hd, rfl, produce_holds hs hd hs.width_le hs.height_le hs.1 rfl rfl fun x _ y _ c _ =>
    sampleByte_mean s s.src m hk.pos x y c⟩

/-- Settles O51: the blurred sample is the quantised sum. -/
theorem gaussResult : Obligations.GaussResult := fun s m hs hm hk hsigma hd =>
  ⟨_, execGauss_ok hs hm hk hsigma hd, rfl,
    produce_holds hs hd hs.width_le hs.height_le hs.1 rfl rfl fun x _ y _ c _ => by
      rw [blurred_eq, sampleByte_quantise],
    fun _ hn => get?_table s.kmem _ _ hn⟩

/-- Settles O52: the blurred sample loses nothing by being stored in 8 bits. -/
theorem unsharpResult : Obligations.UnsharpResult := fun s m hs hm hk hsigma hamount hd =>
  ⟨_, execUnsharp_ok hs hm hk hsigma hamount hd, rfl,
    produce_holds hs hd hs.width_le hs.height_le hs.1 rfl rfl fun x _ y _ c _ => by
      rw [blurred_eq, ← toNat_toSample_floor, sampleByte_sharpen, Int.cast_natCast, Int.cast_natCast],
    fun _ hn => get?_table s.kmem _ _ hn⟩

end Sys2Proof.Machine
end

section
/-! The Gaussian coefficients: the enclosures of the model hold the real exponentials, and are so narrow that no
coefficient exceeds its real value by more than the rounding and 2^-60 (R199, log 9). -/

namespace Sys2Proof.Machine

/-! ## Enclosures of real numbers -/

theorem unit128_pos : 0 < unit128 := Nat.two_pow_pos 128

theorem unit128_cast_pos : (0 : ℝ) < unit128 := Nat.cast_pos.mpr unit128_pos

theorem ceilDiv_le_iff {a b c : Nat} (hb : 0 < b) : ceilDiv a b ≤ c ↔ a ≤ b * c := by
  rw [ceilDiv, Nat.div_le_iff_le_mul_add_pred hb]
  omega

theorem le_mul_ceilDiv (a : Nat) {b : Nat} (hb : 0 < b) : a ≤ b * ceilDiv a b := (ceilDiv_le_iff hb).mp le_rfl

theorem div_le_ceilDiv_cast (a : Nat) {b : Nat} (hb : 0 < b) : (a / b : ℝ) ≤ ceilDiv a b := by
  rw [div_le_iff₀' (by exact_mod_cast hb)]
  exact_mod_cast le_mul_ceilDiv a hb

/-- The ends of a product, rounded outwards, are nearer to each other than the widths of its factors together. -/
theorem ceilDiv_mul_lt {u lo₁ hi₁ lo₂ hi₂ a b : Nat} (hu : 0 < u) (h₁ : lo₁ ≤ hi₁) (h₂ : lo₂ ≤ hi₂)
    (ha : hi₁ < lo₁ + a) (hb : hi₂ < lo₂ + b) (hhi : hi₁ ≤ u) (hlo : lo₂ ≤ u) :
    ceilDiv (hi₁ * hi₂) u < lo₁ * lo₂ / u + (a + b) := by
  obtain ⟨d, rfl⟩ := Nat.exists_eq_add_of_le h₁
  obtain ⟨e, rfl⟩ := Nat.exists_eq_add_of_le h₂
  have hfloor : lo₁ * lo₂ < u * (lo₁ * lo₂ / u + 1) := Nat.lt_mul_div_succ _ hu
  have hprod : (lo₁ + d) * (lo₂ + e) ≤ u * (lo₁ * lo₂ / u + 1 + d + e) :=
    calc (lo₁ + d) * (lo₂ + e) = lo₁ * lo₂ + lo₂ * d + (lo₁ + d) * e := by ring
      _ ≤ u * (lo₁ * lo₂ / u + 1) + u * d + u * e := by gcongr
      _ = u * (lo₁ * lo₂ / u + 1 + d + e) := by ring
  have := (ceilDiv_le_iff hu).mpr hprod
  omega

/-- The interval p holds the real x, does not reach above 1, and is narrower than `width` units of the fixed point. -/
structure Enclosure.Holds (p : Enclosure) (x : ℝ) (width : Nat) : Prop where
  lower  : (p.lo : ℝ) ≤ unit128 * x
  upper  : unit128 * x ≤ p.hi
  le_one : p.hi ≤ unit128
  narrow : p.hi < p.lo + width

namespace Enclosure.Holds

variable {p q : Enclosure} {x y : ℝ} {a b : Nat}

theorem lo_le_hi (h : p.Holds x a) : p.lo ≤ p.hi := by
  exact_mod_cast h.lower.trans h.upper

theorem widen (h : p.Holds x a) (hab : a ≤ b) : p.Holds x b :=
  { h with narrow := h.narrow.trans_le (Nat.add_le_add_left hab _) }

theorem scaled_nonneg (h : p.Holds x a) : 0 ≤ unit128 * x := p.lo.cast_nonneg.trans h.lower

theorem hi_le (h : p.Holds x a) : (p.hi : ℝ) ≤ p.lo + a := by exact_mod_cast h.narrow.le

/-- The widths of the factors add up: the rounding of the product is paid by the strict bounds. -/
theorem mul (hp : p.Holds x a) (hq : q.Holds y b) : (p.mul q).Holds (x * y) (a + b) := by
  have hunit := unit128_cast_pos
  have hscale : (unit128 : ℝ) * (x * y) = unit128 * x * (unit128 * y) / unit128 := by field_simp
  refine ⟨?_, ?_, ?_, ?_⟩
  · calc ((p.lo * q.lo / unit128 : Nat) : ℝ) ≤ (p.lo * q.lo : Nat) / unit128 := Nat.cast_div_le
      _ ≤ unit128 * x * (unit128 * y) / unit128 := by
        rw [Nat.cast_mul]
        exact div_le_div_of_nonneg_right (mul_le_mul hp.lower hq.lower q.lo.cast_nonneg hp.scaled_nonneg) hunit.le
      _ = unit128 * (x * y) := hscale.symm
  · calc (unit128 : ℝ) * (x * y) = unit128 * x * (unit128 * y) / unit128 := hscale
      _ ≤ (p.hi * q.hi : Nat) / unit128 := by
        rw [Nat.cast_mul]
        exact div_le_div_of_nonneg_right (mul_le_mul hp.upper hq.upper hq.scaled_nonneg p.hi.cast_nonneg) hunit.le
      _ ≤ ceilDiv (p.hi * q.hi) unit128 := div_le_ceilDiv_cast _ unit128_pos
  · exact (ceilDiv_le_iff unit128_pos).mpr (Nat.mul_le_mul hp.le_one hq.le_one)
  · exact ceilDiv_mul_lt unit128_pos hp.lo_le_hi hq.lo_le_hi hp.narrow hq.narrow hp.le_one
      (hq.lo_le_hi.trans hq.le_one)

/-- Each squaring doubles the width. -/
theorem squares (h : p.Holds x a) (n : Nat) : (p.squares n).Holds (x ^ 2 ^ n) (2 ^ n * a) := by
  induction n generalizing p x a with
  | zero => simpa [Enclosure.squares] using h
  | succ n ih =>
    have hsq := ih (h.mul h)
    rwa [← sq, ← pow_mul, ← pow_succ', ← two_mul, ← mul_assoc, ← pow_succ] at hsq

/-- Each factor of a power adds its width; the power 0 is the number 1 itself. -/
theorem pow (h : p.Holds x a) (n : Nat) : (p.pow n).Holds (x ^ n) (n * a + 1) := by
  induction n with
  | zero => exact ⟨by simp [Enclosure.pow], by simp [Enclosure.pow], le_rfl, by simp [Enclosure.pow]⟩
  | succ n ih =>
    rw [pow_succ, Nat.succ_mul, Nat.add_right_comm]
    exact ih.mul h

end Enclosure.Holds

/-! ## The series of exp(1 / n) -/

theorem expSeries_snd (n t : Nat) : (expSeries n t).2 = n ^ t * t.factorial := by
  induction t with
  | zero => rfl
  | succ t ih => rw [expSeries, ih, Nat.factorial_succ, pow_succ]; ring

theorem expSeries_snd_pos {n : Nat} (hn : 0 < n) (t : Nat) : 0 < (expSeries n t).2 := by
  rw [expSeries_snd]
  exact Nat.mul_pos (Nat.pow_pos hn) t.factorial_pos

/-- The denominator is that of the last term. -/
theorem term_mul_expSeries_snd {n : Nat} (hn : 0 < n) (t : Nat) :
    (1 / n : ℝ) ^ t / t.factorial * (expSeries n t).2 = 1 := by
  have hn' : (n : ℝ) ≠ 0 := by positivity
  rw [expSeries_snd, one_div_pow]
  push_cast
  field_simp

/-- The fraction of the model is the partial sum of the series. -/
theorem expSeries_fst {n : Nat} (hn : 0 < n) (t : Nat) :
    ((expSeries n t).1 : ℝ) = (∑ i ∈ Finset.range t, (1 / n : ℝ) ^ i / i.factorial) * (expSeries n t).2 := by
  induction t with
  | zero => simp [expSeries]
  | succ t ih =>
    rw [Finset.sum_range_succ, expSeries]
    push_cast
    rw [ih]
    linear_combination (-(n * (t + 1) : ℝ)) * term_mul_expSeries_snd hn t

/-- The first term of the series is 1. -/
theorem expSeries_snd_le_fst (n t : Nat) : (expSeries n (t + 1)).2 ≤ (expSeries n (t + 1)).1 := by
  have hone : ∀ t, (expSeries n t).2 ≤ (expSeries n t).1 + 1 := fun t => by
    induction t with
    | zero => exact le_rfl
    | succ t ih => exact (Nat.mul_le_mul_right _ ih).trans (Nat.le_succ _)
  exact Nat.mul_le_mul_right _ (hone t)

/-- The remainder of the series after t terms is at most 2 / (n^t * t!). -/
theorem expSeries_bounds {n : Nat} (hn : 0 < n) {t : Nat} (ht : 0 < t) :
    ((expSeries n t).1 : ℝ) ≤ Real.exp (1 / n) * (expSeries n t).2 ∧
      Real.exp (1 / n) * (expSeries n t).2 ≤ ((expSeries n t).1 + 2 : Nat) := by
  have hden : (0 : ℝ) < (expSeries n t).2 := by exact_mod_cast expSeries_snd_pos hn t
  have hx0 : (0 : ℝ) ≤ 1 / n := by positivity
  have hx1 : (1 / n : ℝ) ≤ 1 := by rw [div_le_one (by positivity)]; exact_mod_cast hn
  have hrem : (1 / n : ℝ) ^ t * (t + 1) / (t.factorial * t) * (expSeries n t).2 ≤ 2 := by
    have ht' : (1 : ℝ) ≤ t := by exact_mod_cast ht
    calc (1 / n : ℝ) ^ t * (t + 1) / (t.factorial * t) * (expSeries n t).2
        = (1 / n : ℝ) ^ t / t.factorial * (expSeries n t).2 * ((t + 1) / t) := by ring
      _ = (t + 1) / t := by rw [term_mul_expSeries_snd hn, one_mul]
      _ ≤ 2 := by rw [div_le_iff₀ (by linarith)]; linarith
  rw [expSeries_fst hn]
  refine ⟨mul_le_mul_of_nonneg_right (Real.sum_le_exp_of_nonneg hx0 t) hden.le, ?_⟩
  rw [Nat.cast_add, expSeries_fst hn]
  calc Real.exp (1 / n) * (expSeries n t).2
      ≤ (∑ i ∈ Finset.range t, (1 / n : ℝ) ^ i / i.factorial +
          (1 / n : ℝ) ^ t * (t + 1) / (t.factorial * t)) * (expSeries n t).2 :=
        mul_le_mul_of_nonneg_right (Real.exp_bound' hx0 hx1 ht) hden.le
    _ ≤ _ := by rw [add_mul]; exact add_le_add_right hrem _

/-- Two quotients of numbers that large, with divisors 2 apart, differ by less than 3 when rounded outwards. -/
theorem ceilDiv_lt_div_add_three {u a b : Nat} (hu : 0 < u) (hab : a ≤ b) (hlarge : 2 * u ≤ a) :
    ceilDiv (u * a) b < u * a / (b + 2) + 3 := by
  have hfloor : u * a < (b + 2) * (u * a / (b + 2) + 1) := Nat.lt_mul_div_succ _ (by omega)
  have hquot : u * a / (b + 2) < u :=
    Nat.div_lt_of_lt_mul (by rw [Nat.mul_comm]; exact Nat.mul_lt_mul_of_pos_right (by omega) hu)
  refine Nat.lt_succ_of_le ((ceilDiv_le_iff (by omega)).mpr ?_)
  generalize u * a / (b + 2) = q at *
  nlinarith

/-- The model's two quotients enclose exp(-1 / n); 32^18 * 18! exceeds 2^129, so that the ends are within two units of
each other. -/
theorem expInv_holds {n : Nat} (hn : 32 ≤ n) : (expInv n).Holds (Real.exp (-(1 / n))) 3 := by
  have hn0 : 0 < n := by omega
  obtain ⟨hlow, hhigh⟩ := expSeries_bounds hn0 (t := 18) (by decide)
  have hfst : (expSeries n 18).2 ≤ (expSeries n 18).1 := expSeries_snd_le_fst n 17
  have hlarge : 2 * unit128 ≤ (expSeries n 18).2 := by
    rw [expSeries_snd]
    exact le_trans (by decide) (Nat.mul_le_mul_right _ (Nat.pow_le_pow_left hn 18))
  unfold expInv
  dsimp only
  generalize expSeries n 18 = f at *
  have hunit := unit128_pos
  have hscale : (unit128 : ℝ) * Real.exp (-(1 / n)) = unit128 * f.2 / (Real.exp (1 / n) * f.2) := by
    have : (0 : ℝ) < f.2 := by exact_mod_cast (by omega : 0 < f.2)
    rw [Real.exp_neg]; field_simp
  have hf1 : (0 : ℝ) < f.1 := by exact_mod_cast (by omega : 0 < f.1)
  refine ⟨?_, ?_, ?_, ?_⟩
  · calc ((unit128 * f.2 / (f.1 + 2) : Nat) : ℝ) ≤ (unit128 * f.2 : Nat) / (f.1 + 2 : Nat) := Nat.cast_div_le
      _ ≤ unit128 * f.2 / (Real.exp (1 / n) * f.2) := by
        rw [Nat.cast_mul]
        exact div_le_div_of_nonneg_left (by positivity) (hf1.trans_le hlow) hhigh
      _ = unit128 * Real.exp (-(1 / n)) := hscale.symm
  · calc (unit128 : ℝ) * Real.exp (-(1 / n)) = unit128 * f.2 / (Real.exp (1 / n) * f.2) := hscale
      _ ≤ (unit128 * f.2 : Nat) / f.1 := by
        rw [Nat.cast_mul]
        exact div_le_div_of_nonneg_left (by positivity) hf1 hlow
      _ ≤ ceilDiv (unit128 * f.2) f.1 := div_le_ceilDiv_cast _ (by omega)
  · rw [ceilDiv_le_iff (by omega), Nat.mul_comm]
    exact Nat.mul_le_mul_right _ hfst
  · exact ceilDiv_lt_div_add_three unit128_pos hfst hlarge

/-! ## The real coefficients and their enclosures (R199) -/

/-- The legal kernel sizes are odd and at most 11 (R106). -/
theorem kernelSize_odd {k : Nat} (hk : k ∈ [1, 3, 5, 7, 9, 11]) : ∃ r ≤ 5, k = 2 * r + 1 := by
  simp only [List.mem_cons, List.not_mem_nil, or_false] at hk
  exact ⟨k / 2, by omega, by omega⟩

/-- A legal kernel has at most 121 taps (R52, R106). -/
theorem taps_le {k : Nat} (hk : k ∈ [1, 3, 5, 7, 9, 11]) : k * k ≤ 121 := by
  obtain ⟨r, hr, rfl⟩ := kernelSize_odd hk
  exact Nat.mul_le_mul (show 2 * r + 1 ≤ 11 by omega) (show 2 * r + 1 ≤ 11 by omega)

/-- e(dx, dy) of tap n of a k x k kernel (R199). -/
noncomputable def gaussReal (k sc n : Nat) : ℝ := Real.exp (-(tapDistance k n * (32768 / (sc : ℝ) ^ 2)))

/-- Z, the sum over all taps (R199). -/
noncomputable def gaussTotal (k sc : Nat) : ℝ := ∑ n ∈ Finset.range (k * k), gaussReal k sc n

/-- The coefficient of tap n before its rounding (R199). -/
noncomputable def idealCoef (k sc n : Nat) : ℝ := 2 ^ 24 * gaussReal k sc n / gaussTotal k sc

/-- The enclosure the model computes for tap n. -/
def tapEnclosure (k sc n : Nat) : Enclosure := (gaussBase sc).pow (tapDistance k n)

/-- The sum of the lower ends. -/
def lowTotal (k sc : Nat) : Nat := ∑ n ∈ Finset.range (k * k), (tapEnclosure k sc n).lo

/-- The sum of the upper ends. -/
def highTotal (k sc : Nat) : Nat := ∑ n ∈ Finset.range (k * k), (tapEnclosure k sc n).hi

theorem gaussWeights_eq (k sc : Nat) : gaussWeights k sc = (List.range (k * k)).map (tapEnclosure k sc) := rfl

theorem gcoef_getD {k n : Nat} (sc : Nat) (hn : n < k * k) :
    (gcoef k sc).getD n 0 = roundCoef (tapEnclosure k sc n).hi (lowTotal k sc) := by
  have hsum : ((gaussWeights k sc).map Enclosure.lo).sum = lowTotal k sc := by
    rw [gaussWeights_eq, List.map_map]; rfl
  rw [gcoef, hsum, gaussWeights_eq]
  simp [hn]

theorem gcoefBelow_getD {k n : Nat} (sc : Nat) (hn : n < k * k) :
    (gcoefBelow k sc).getD n 0 = roundCoef (tapEnclosure k sc n).lo (highTotal k sc) := by
  have hsum : ((gaussWeights k sc).map Enclosure.hi).sum = highTotal k sc := by
    rw [gaussWeights_eq, List.map_map]; rfl
  rw [gcoefBelow, hsum, gaussWeights_eq]
  simp [hn]

/-- The coefficient of a tap is the rounded quotient (R10, R199). -/
theorem roundCoef_eq_floor (e : Nat) {z : Nat} (hz : 0 < z) :
    (roundCoef e z : Int) = ⌊(2 ^ 24 * e / z : ℝ) + 1 / 2⌋ := by
  have hz' : (z : ℝ) ≠ 0 := by positivity
  have hquot : (2 ^ 24 * e / z : ℝ) + 1 / 2 = (2 * 2 ^ 24 * e + z : Nat) / (2 * z : Nat) := by
    push_cast; field_simp; ring
  rw [hquot, ← Int.natCast_floor_eq_floor (by positivity), Nat.floor_div_eq_div, roundCoef]

theorem gaussBase_holds {sc : Nat} (hsc : 1 ≤ sc) :
    (gaussBase sc).Holds (Real.exp (-(32768 / (sc : ℝ) ^ 2))) (2 ^ 20 * 3) := by
  have hpow : Real.exp (-(1 / (32 * sc ^ 2 : Nat))) ^ 2 ^ 20 = Real.exp (-(32768 / (sc : ℝ) ^ 2)) := by
    rw [← Real.exp_nat_mul]
    congr 1
    push_cast
    field_simp
    norm_num
  rw [← hpow]
  exact (expInv_holds (Nat.le_mul_of_pos_right 32 (Nat.pow_pos hsc))).squares 20

/-- The distance of the tap in column i and row j from the centre (r, r) (R53). -/
theorem tapDistance_tap {r i : Nat} (hi : i < 2 * r + 1) (j : Nat) :
    tapDistance (2 * r + 1) (j * (2 * r + 1) + i) = ((i : Int) - r).natAbs ^ 2 + ((j : Int) - r).natAbs ^ 2 := by
  have hcentre : (((2 * r + 1 : Nat) : Int) - 1) / 2 = r := by omega
  have hrow : (j * (2 * r + 1) + i) / (2 * r + 1) = j := by
    rw [Nat.mul_comm, Nat.mul_add_div (by omega), Nat.div_eq_of_lt hi, Nat.add_zero]
  rw [tapDistance, Nat.mul_add_mod_of_lt hi, hrow, hcentre]

/-- The real coefficient in the fixed point of the enclosures. -/
theorem idealCoef_scaled (k sc n : Nat) :
    idealCoef k sc n = 2 ^ 24 * (unit128 * gaussReal k sc n) / (unit128 * gaussTotal k sc) := by
  rw [mul_left_comm, mul_div_mul_left _ _ unit128_cast_pos.ne', idealCoef]

/-- A quotient of enclosed numbers exceeds the real one by at most the widths over the total. -/
theorem quotient_le {x y hi low width : ℝ} (hwidth : 0 ≤ width) (hlow : 0 < low) (hlowy : low ≤ y)
    (hhi : hi ≤ x + width) (hx : 0 ≤ x) (hxy : x ≤ y) (hy : y ≤ low + 121 * width) :
    hi / low ≤ x / y + 122 * width / low := by
  have hypos : 0 < y := hlow.trans_le hlowy
  have hone : x / y ≤ 1 := (div_le_one hypos).mpr hxy
  rw [div_le_iff₀ hlow, add_mul, div_mul_cancel₀ _ hlow.ne']
  calc hi ≤ x / y * y + width := by rwa [div_mul_cancel₀ _ hypos.ne']
    _ ≤ x / y * (low + 121 * width) + width := by gcongr
    _ = x / y * low + x / y * (121 * width) + width := by ring
    _ ≤ x / y * low + 1 * (121 * width) + width := by gcongr
    _ = x / y * low + 122 * width := by ring

section
variable {k sc n : Nat} (hk : k ∈ [1, 3, 5, 7, 9, 11])
include hk

/-- No tap of a legal kernel is further than (5, 5) from the centre (R106). -/
theorem tapDistance_le (hn : n < k * k) : tapDistance k n ≤ 50 := by
  obtain ⟨r, hr, rfl⟩ := kernelSize_odd hk
  have hcol : n % (2 * r + 1) < 2 * r + 1 := Nat.mod_lt _ (by omega)
  have hrow : n / (2 * r + 1) < 2 * r + 1 := Nat.div_lt_of_lt_mul hn
  have hsq : ∀ a < 2 * r + 1, ((a : Int) - r).natAbs ^ 2 ≤ 5 ^ 2 := fun a ha => Nat.pow_le_pow_left (by omega) 2
  rw [← Nat.div_add_mod' n (2 * r + 1), tapDistance_tap hcol]
  exact Nat.add_le_add (hsq _ hcol) (hsq _ hrow)

/-- The centre of a kernel is a tap at distance 0. -/
theorem exists_centre_tap : ∃ n < k * k, tapDistance k n = 0 := by
  obtain ⟨r, -, rfl⟩ := kernelSize_odd hk
  exact ⟨r * (2 * r + 1) + r, by nlinarith, by rw [tapDistance_tap (by omega)]; simp⟩

/-- The weight at the centre is 1, and its enclosure exact. -/
theorem unit128_le_lowTotal : unit128 ≤ lowTotal k sc := by
  obtain ⟨n, hn, hcentre⟩ := exists_centre_tap hk
  have hlo : (tapEnclosure k sc n).lo = unit128 := by rw [tapEnclosure, hcentre]; rfl
  rw [← hlo]
  exact Finset.single_le_sum (f := fun n => (tapEnclosure k sc n).lo) (fun _ _ => Nat.zero_le _)
    (Finset.mem_range.mpr hn)

theorem lowTotal_pos : 0 < lowTotal k sc := unit128_pos.trans_le (unit128_le_lowTotal hk)

theorem gaussTotal_pos : 0 < gaussTotal k sc := by
  obtain ⟨n, hn, -⟩ := exists_centre_tap hk
  exact Finset.sum_pos (fun _ _ => Real.exp_pos _) ⟨n, Finset.mem_range.mpr hn⟩

/-- The real coefficients of a kernel sum to 1, which is 2^24 in Q7.24 (R199). -/
theorem sum_idealCoef : ∑ n ∈ Finset.range (k * k), idealCoef k sc n = 2 ^ 24 := by
  simp only [idealCoef, ← Finset.sum_div, ← Finset.mul_sum]
  exact mul_div_cancel_right₀ _ (gaussTotal_pos hk).ne'

variable (hsc : 1 ≤ sc)
include hsc

theorem tapEnclosure_holds (hn : n < k * k) : (tapEnclosure k sc n).Holds (gaussReal k sc n) (2 ^ 28) := by
  have hpow := (gaussBase_holds hsc).pow (tapDistance k n)
  rw [← Real.exp_nat_mul, mul_neg] at hpow
  exact hpow.widen (by have := tapDistance_le hk hn; omega)

theorem lowTotal_le : (lowTotal k sc : ℝ) ≤ unit128 * gaussTotal k sc := by
  rw [lowTotal, Nat.cast_sum, gaussTotal, Finset.mul_sum]
  exact Finset.sum_le_sum fun n hn => (tapEnclosure_holds hk hsc (Finset.mem_range.mp hn)).lower

theorem le_highTotal : unit128 * gaussTotal k sc ≤ highTotal k sc := by
  rw [highTotal, Nat.cast_sum, gaussTotal, Finset.mul_sum]
  exact Finset.sum_le_sum fun n hn => (tapEnclosure_holds hk hsc (Finset.mem_range.mp hn)).upper

/-- The widths of at most 121 enclosures, together. -/
theorem le_lowTotal_add : unit128 * gaussTotal k sc ≤ lowTotal k sc + 121 * 2 ^ 28 := by
  have htap : ∀ n ∈ Finset.range (k * k), unit128 * gaussReal k sc n ≤ (tapEnclosure k sc n).lo + (2 ^ 28 : Nat) :=
    fun n hn => have h := tapEnclosure_holds hk hsc (Finset.mem_range.mp hn); h.upper.trans h.hi_le
  have htaps : ((k * k : Nat) : ℝ) ≤ 121 := by exact_mod_cast taps_le hk
  calc unit128 * gaussTotal k sc = ∑ n ∈ Finset.range (k * k), unit128 * gaussReal k sc n := Finset.mul_sum ..
    _ ≤ ∑ n ∈ Finset.range (k * k), ((tapEnclosure k sc n).lo + (2 ^ 28 : Nat) : ℝ) := Finset.sum_le_sum htap
    _ = lowTotal k sc + (k * k : Nat) * 2 ^ 28 := by
      rw [Finset.sum_add_distrib, lowTotal, Nat.cast_sum, Finset.sum_const, Finset.card_range, nsmul_eq_mul]
      norm_num
    _ ≤ lowTotal k sc + 121 * 2 ^ 28 := by gcongr

/-! ## The computed coefficients against the real ones (R199) -/

variable (hn : n < k * k)
include hn

theorem gcoefBelow_le : ((gcoefBelow k sc).getD n 0 : Int) ≤ ⌊idealCoef k sc n + 1 / 2⌋ := by
  have htotal : 0 < unit128 * gaussTotal k sc := mul_pos unit128_cast_pos (gaussTotal_pos hk)
  have hhigh := le_highTotal hk hsc
  have hpos : 0 < highTotal k sc := by exact_mod_cast htotal.trans_le hhigh
  have hholds := tapEnclosure_holds hk hsc hn
  have hlower := hholds.lower
  rw [gcoefBelow_getD sc hn, roundCoef_eq_floor _ hpos, idealCoef_scaled]
  gcongr
  exact mul_nonneg (by positivity) hholds.scaled_nonneg

theorem le_gcoef : ⌊idealCoef k sc n + 1 / 2⌋ ≤ ((gcoef k sc).getD n 0 : Int) := by
  have hpos := lowTotal_pos (sc := sc) hk
  have hlow := lowTotal_le hk hsc
  have hupper := (tapEnclosure_holds hk hsc hn).upper
  rw [gcoef_getD sc hn, roundCoef_eq_floor _ hpos, idealCoef_scaled]
  gcongr

/-- Each enclosure is narrower than 2^28 units, and 122 of them together than 2^35, of a total of at least 2^128. -/
theorem gcoef_le : ((gcoef k sc).getD n 0 : ℝ) ≤ idealCoef k sc n + 1 / 2 + 1 / 2 ^ 60 := by
  have hpos := lowTotal_pos (sc := sc) hk
  have hholds := tapEnclosure_holds hk hsc hn
  have hhi : ((tapEnclosure k sc n).hi : ℝ) ≤ unit128 * gaussReal k sc n + (2 ^ 28 : Nat) :=
    hholds.hi_le.trans (add_le_add_left hholds.lower _)
  have hle : unit128 * gaussReal k sc n ≤ unit128 * gaussTotal k sc := by
    have hterm : gaussReal k sc n ≤ gaussTotal k sc :=
      Finset.single_le_sum (f := gaussReal k sc) (fun _ _ => (Real.exp_pos _).le) (Finset.mem_range.mpr hn)
    gcongr
  have hquot := quotient_le (Nat.cast_nonneg _) (Nat.cast_pos.mpr hpos) (lowTotal_le hk hsc) hhi hholds.scaled_nonneg
    hle (by exact_mod_cast le_lowTotal_add hk hsc)
  have herror : (122 * (2 ^ 28 : Nat) / lowTotal k sc : ℝ) ≤ 1 / 2 ^ 84 := by
    have hcentre : (2 : ℝ) ^ 128 ≤ lowTotal k sc := by exact_mod_cast unit128_le_lowTotal hk
    rw [div_le_div_iff₀ (by positivity) (by positivity)]
    push_cast
    linarith
  calc ((gcoef k sc).getD n 0 : ℝ) ≤ 2 ^ 24 * (tapEnclosure k sc n).hi / lowTotal k sc + 1 / 2 := by
        rw [gcoef_getD sc hn, ← Int.cast_natCast, roundCoef_eq_floor _ hpos]
        exact Int.floor_le _
    _ ≤ idealCoef k sc n + 1 / 2 + 1 / 2 ^ 60 := by
        rw [idealCoef_scaled, mul_div_assoc, mul_div_assoc]
        linarith

end

/-- The double sum over columns and rows is the sum over the taps (R53). -/
theorem sum_rows_columns (m k : Nat) (f : Nat → ℝ) :
    ∑ j ∈ Finset.range m, ∑ i ∈ Finset.range k, f (j * k + i) = ∑ n ∈ Finset.range (m * k), f n := by
  induction m with
  | zero => simp
  | succ m ih => rw [Nat.succ_mul, Finset.sum_range_add _ (m * k), ← ih, Finset.sum_range_succ]

/-- The exponential of the tap in column i and row j (R199). -/
theorem gaussReal_tap {k i : Nat} (hk : k ∈ [1, 3, 5, 7, 9, 11]) (sc : Nat) (hi : i < k) (j : Nat) :
    gaussReal k sc (j * k + i) =
      Real.exp (-((((i : ℝ) - (k - 1) / 2) ^ 2 + ((j : ℝ) - (k - 1) / 2) ^ 2) * 32768 / (sc : ℝ) ^ 2)) := by
  obtain ⟨r, -, rfl⟩ := kernelSize_odd hk
  have hcentre : (((2 * r + 1 : Nat) : ℝ) - 1) / 2 = r := by push_cast; ring
  have hsq : ∀ a : Nat, ((((a : Int) - r).natAbs ^ 2 : Nat) : ℝ) = ((a : ℝ) - r) ^ 2 := fun a => by
    rw [← Int.cast_natCast, Nat.cast_pow, Int.natAbs_sq]; push_cast; rfl
  rw [gaussReal, tapDistance_tap hi, Nat.cast_add, hsq, hsq, hcentre, mul_div_assoc]

/-- Settles O53: the enclosures bracket the real coefficients and are narrow. -/
theorem gaussianCoefficients : Obligations.GaussianCoefficients := by
  intro k sc hk hsc _ j hj i hi e w
  have htap : ∀ a < k, ∀ b, e a b = gaussReal k sc (b * k + a) := fun a ha b => (gaussReal_tap hk sc ha b).symm
  have htotal : ∑ b ∈ Finset.range k, ∑ a ∈ Finset.range k, e a b = gaussTotal k sc := by
    rw [gaussTotal, ← sum_rows_columns]
    exact Finset.sum_congr rfl fun b _ => Finset.sum_congr rfl fun a ha => htap a (Finset.mem_range.mp ha) b
  have hw : w = idealCoef k sc (j * k + i) := by
    simp only [w, htotal, htap i hi j, idealCoef]
  have hn : j * k + i < k * k := by simpa using raster_index_lt hi hj Nat.one_pos
  rw [hw]
  exact ⟨gcoefBelow_le hk hsc hn, le_gcoef hk hsc hn, gcoef_le hk hsc hn⟩

end Sys2Proof.Machine
end

section
/-! A constant image is reproduced by BOX, GAUSS and the two resizes: a weighted mean of equal samples is that sample
(R203, R255). -/

namespace Sys2Proof.Machine

variable {s t : State} {v : Nat → Byte}

/-! ## Reading a constant source -/

/-- The source buffer holds the value v c in every sample of channel c. -/
def ConstantSource (s : State) (v : Nat → Byte) : Prop :=
  ∀ n < s.operands.srcLen.toNat, Memory.get? s.bmem (s.src.addr + n) = some (v (n % s.src.c))

section
variable (hs : SrcOk s) (hv : ConstantSource s v)
include hs hv

theorem ConstantSource.sample (site : List Nat) {x y c : Nat} (hx : x < s.src.w) (hy : y < s.src.h)
    (hc : c < s.src.c) : s.sample s.src site x y c = (v c).toNat := by
  obtain ⟨-, -, -, hlen, -⟩ := hs
  refine sample_written ?_ site
  rw [Buf.sampleAddr, Nat.add_assoc, hv _ (hlen ▸ raster_index_lt hx hy hc), Nat.mul_add_mod_of_lt hc]

/-- In the modes REFLECT and REPLICATE the padding is constant too (R192, R193). -/
theorem ConstantSource.paddedSample {mode : Border} (hmode : mode = .reflect ∨ mode = .replicate) (site : List Nat)
    {c : Nat} (hc : c < s.src.c) (x y : Int) : s.paddedSample s.src mode site c x y = (v c).toNat := by
  obtain ⟨xi, hx⟩ := Option.isSome_iff_exists.mp (bidx_isSome hmode x s.src.w)
  obtain ⟨yi, hy⟩ := Option.isSome_iff_exists.mp (bidx_isSome hmode y s.src.h)
  rw [State.paddedSample, padded_of_some _ hx hy]
  exact hv.sample hs site (bidx_lt hs.width_pos hx) (bidx_lt hs.height_pos hy) hc

end

/-! ## Means of equal samples -/

/-- The sum over equal samples is the sum of the weights times the sample (R194). -/
theorem neighbourSum_constant {k p : Nat} (wt : Nat → Int) {plane : Nat → Int → Int → Nat}
    (hplane : ∀ n x y, plane n x y = p) (x y : Nat) :
    neighbourSum k wt plane x y = (∑ n ∈ Finset.range (k * k), wt n) * p := by
  simp only [neighbourSum, hplane, sum_map_range, Finset.sum_mul]

/-- A number p weighted with a total of q, divided by q and rounded half up. -/
theorem fdiv_half_up_mul {a d q : Int} {p : Nat} (hq : 0 < q) (ha : a = q * (2 * p + 1)) (hd : d = q * 2) :
    fdiv a d = p := by
  rw [ha, hd, fdiv, Int.mul_ediv_mul_of_pos _ _ hq]
  omega

/-- Weights whose sum is near 2^24 quantise a sample to itself (R195). -/
theorem quantise_mul_of_near {total : Int} (hlow : 2 ^ 24 - 121 ≤ total) (hhigh : total ≤ 2 ^ 24 + 121) (p : Byte) :
    quantise (total * p.toNat) = p.toNat := by
  have hp := p.isLt
  have hmul0 : (2 ^ 24 - 121) * (p.toNat : Int) ≤ total * p.toNat := Int.mul_le_mul_of_nonneg_right hlow (by omega)
  have hmul1 : total * (p.toNat : Int) ≤ (2 ^ 24 + 121) * p.toNat := Int.mul_le_mul_of_nonneg_right hhigh (by omega)
  rw [quantise, clamp_eq_max_min _ (by decide), fdiv]
  omega

/-- Each of the at most 121 coefficients is within 1 of its real value, and those sum to 2^24 (R199). -/
theorem sum_gcoef_near {k sc : Nat} (hk : k ∈ [1, 3, 5, 7, 9, 11]) (hsc : 1 ≤ sc) :
    2 ^ 24 - 121 ≤ ∑ n ∈ Finset.range (k * k), ((gcoef k sc).getD n 0 : Int) ∧
      ∑ n ∈ Finset.range (k * k), ((gcoef k sc).getD n 0 : Int) ≤ 2 ^ 24 + 121 := by
  have hnear : ∀ n ∈ Finset.range (k * k), idealCoef k sc n - 1 ≤ ((gcoef k sc).getD n 0 : ℝ) ∧
      ((gcoef k sc).getD n 0 : ℝ) ≤ idealCoef k sc n + 1 := fun n hn => by
    have hn := Finset.mem_range.mp hn
    have hround : (⌊idealCoef k sc n + 1 / 2⌋ : ℝ) ≤ ((gcoef k sc).getD n 0 : ℝ) := by
      exact_mod_cast le_gcoef hk hsc hn
    have hfloor := Int.sub_one_lt_floor (idealCoef k sc n + 1 / 2)
    have hhigh := gcoef_le hk hsc hn
    constructor <;> linarith
  have htaps : ((k * k : Nat) : ℝ) ≤ 121 := by exact_mod_cast taps_le hk
  have hlow := Finset.sum_le_sum fun n hn => (hnear n hn).1
  have hhigh := Finset.sum_le_sum fun n hn => (hnear n hn).2
  simp only [Finset.sum_sub_distrib, Finset.sum_add_distrib, sum_idealCoef hk, Finset.sum_const, Finset.card_range,
    nsmul_eq_mul, mul_one] at hlow hhigh
  constructor <;> rify <;> linarith

section
variable (hs : SrcOk s) (hv : ConstantSource s v)
include hs hv

theorem boxSum_constant {mode : Border} (hmode : mode = .reflect ∨ mode = .replicate) (k x y : Nat) {c : Nat}
    (hc : c < s.src.c) : s.boxSum s.src mode k x y c = k * k * (v c).toNat := by
  rw [State.boxSum, neighbourSum_constant _ fun n => hv.paddedSample hs hmode _ hc]
  simp

theorem blurred_gcoef_constant {mode : Border} (hmode : mode = .reflect ∨ mode = .replicate) {k sc : Nat}
    (hk : k ∈ [1, 3, 5, 7, 9, 11]) (hsc : 1 ≤ sc) (x y : Nat) {c : Nat} (hc : c < s.src.c) :
    s.blurred ⟨s.src, mode, k⟩ (gcoef k sc) x y c = (v c).toNat := by
  obtain ⟨hlow, hhigh⟩ := sum_gcoef_near hk hsc
  rw [blurred_eq, ← neighbourSum_eq, neighbourSum_constant _ fun n => hv.paddedSample hs hmode _ hc]
  exact quantise_mul_of_near hlow hhigh (v c)

/-- The weights of a blend sum to dx * dy (R252, R254). -/
theorem bilinear_constant {nw nh : Nat} (hw : 1 ≤ nw) (hh : 1 ≤ nh) (ox oy : Nat) {c : Nat} (hc : c < s.src.c) :
    s.bilinear s.src nw nh ox oy c = (v c).toNat := by
  obtain ⟨hx0, hx1⟩ := axisMap_lt hs.width_pos ox nw
  obtain ⟨hy0, hy1⟩ := axisMap_lt hs.height_pos oy nh
  have hpos : (0 : Int) < 2 * nw * (2 * nh) := by positivity
  simp only [State.bilinear, hv.sample hs _ hx0 hy0 hc, hv.sample hs _ hx1 hy0 hc, hv.sample hs _ hx0 hy1 hc,
    hv.sample hs _ hx1 hy1 hc, blendNum]
  exact fdiv_half_up_mul hpos (by ring) (by ring)

end

/-! ## The commands -/

/-- The first m bytes of the destination hold the value v c in every sample of channel c. -/
def HoldsConstant (s t : State) (m : Nat) (v : Nat → Byte) : Prop :=
  ∀ n < m, Memory.get? t.bmem (s.operands.dstAddr.toNat + n) = some (v (n % s.src.c))

/-- An output buffer of constant samples, as it is stored (R78, R79). -/
theorem produce_holdsConstant {ow oh : Nat} {out : Nat → Nat → Nat → Byte}
    (hout : ∀ x < ow, ∀ y < oh, ∀ c < s.src.c, out x y c = v c)
    (ht : t.bmem = (s.produce ow oh s.src.c out).bmem) : HoldsConstant s t (ow * oh * s.src.c) v := by
  intro n hn
  obtain ⟨x, hx, y, hy, c, hc, rfl⟩ := exists_raster_index hn
  rw [ht, State.produce, Memory.get?_store, if_pos ⟨by omega, by rw [raster_length]; omega⟩, Nat.add_sub_cancel_left,
    raster_getElem? out hx hy hc, hout x hx y hy c hc, Nat.mul_add_mod_of_lt hc]

/-- A border mode that is REFLECT or REPLICATE, with its name. -/
theorem exists_borderIs (h : BorderIs s .reflect ∨ BorderIs s .replicate) :
    ∃ m, BorderIs s m ∧ (m = .reflect ∨ m = .replicate) :=
  h.elim (fun h => ⟨_, h, .inl rfl⟩) fun h => ⟨_, h, .inr rfl⟩

section
variable (hv : ConstantSource s v)
include hv

theorem box_constant (hborder : BorderIs s .reflect ∨ BorderIs s .replicate) (hpass : ChecksPass .box s)
    (hexec : exec .box s = .next t) : HoldsConstant s t (outLen .box s) v := by
  obtain ⟨hsrc, ⟨-, hk⟩, hd, -⟩ := hpass
  obtain ⟨m, hm, hmode⟩ := exists_borderIs hborder
  have hpos : (0 : Int) < s.operands.ksize.toNat * s.operands.ksize.toNat := by have := hk.pos; positivity
  cases (execBox_ok (hsrc rfl) hm hk (hd rfl)).symm.trans hexec
  refine produce_holdsConstant (fun x _ y _ c hc => ?_) rfl
  rw [boxSum_constant (hsrc rfl) hv hmode _ x y hc,
    fdiv_half_up_mul (p := (v c).toNat) hpos (by ring) (by ring), sampleByte_toNat]

theorem gauss_constant (hborder : BorderIs s .reflect ∨ BorderIs s .replicate) (hpass : ChecksPass .gauss s)
    (hexec : exec .gauss s = .next t) : HoldsConstant s t (outLen .gauss s) v := by
  obtain ⟨hsrc, ⟨-, hk, hsigma⟩, hd, -⟩ := hpass
  obtain ⟨m, hm, hmode⟩ := exists_borderIs hborder
  cases (execGauss_ok (hsrc rfl) hm hk hsigma (hd rfl)).symm.trans hexec
  refine produce_holdsConstant (fun x _ y _ c hc => ?_) rfl
  rw [blurred_gcoef_constant (hsrc rfl) hv hmode hk hsigma.1 x y hc, sampleByte_toNat]

theorem resizeNn_constant (hpass : ChecksPass .resizeNn s) (hexec : exec .resizeNn s = .next t) :
    HoldsConstant s t (outLen .resizeNn s) v := by
  obtain ⟨hsrc, ⟨hnw, hnh⟩, hd, -⟩ := hpass
  have hs := hsrc rfl
  cases (execResizeNn_ok hs hnw hnh (hd rfl)).symm.trans hexec
  refine produce_holdsConstant (fun x hx y hy c hc => ?_) rfl
  have hx' : x * s.src.w / s.operands.newW.toNat < s.src.w := nearest_lt hs.width_pos hx
  have hy' : y * s.src.h / s.operands.newH.toNat < s.src.h := nearest_lt hs.height_pos hy
  rw [hv.sample hs _ hx' hy' hc, BitVec.ofNat_toNat, BitVec.setWidth_eq]

theorem resizeBl_constant (hpass : ChecksPass .resizeBl s) (hexec : exec .resizeBl s = .next t) :
    HoldsConstant s t (outLen .resizeBl s) v := by
  obtain ⟨hsrc, ⟨hnw, hnh⟩, hd, -⟩ := hpass
  cases (execResizeBl_ok (hsrc rfl) hnw hnh (hd rfl)).symm.trans hexec
  refine produce_holdsConstant (fun x _ y _ c hc => ?_) rfl
  rw [bilinear_constant (hsrc rfl) hv hnw.1 hnh.1 x y hc, sampleByte_toNat]

end

/-- Settles O55: each of the commands forms every output sample as a mean of equal samples. -/
theorem constantImagesAreReproduced : Obligations.ConstantImagesAreReproduced := by
  intro i s t v hi hborder hpass hv hexec
  simp only [List.mem_cons, List.not_mem_nil, or_false] at hi
  rcases hi with rfl | rfl | rfl | rfl
  · exact box_constant hv (hborder (by decide)) hpass hexec
  · exact gauss_constant hv (hborder (by decide)) hpass hexec
  · exact resizeNn_constant hv hpass hexec
  · exact resizeBl_constant hv hpass hexec

end Sys2Proof.Machine
end

section
/-! SOBEL: the normalisation of R235 compares real square roots, the commit takes the least and the greatest magnitude of
all pixels, and a uniform image has no gradient (R230 to R236). -/

namespace Sys2Proof.Machine

/-! ## The normalisation (R234, R235) -/

/-- A sum of two numbers that are not negative against a third, by the squares alone. -/
theorem add_le_iff_of_nonneg {p q r : ℝ} (hp : 0 ≤ p) (hq : 0 ≤ q) (hr : 0 ≤ r) :
    p + q ≤ r ↔ 0 ≤ r ^ 2 - p ^ 2 - q ^ 2 ∧ 4 * p ^ 2 * q ^ 2 ≤ (r ^ 2 - p ^ 2 - q ^ 2) ^ 2 := by
  have hpq : 0 ≤ 2 * p * q := by positivity
  calc p + q ≤ r
      ↔ (p + q) ^ 2 ≤ r ^ 2 := (pow_le_pow_iff_left₀ (by positivity) hr two_ne_zero).symm
    _ ↔ 2 * p * q ≤ r ^ 2 - p ^ 2 - q ^ 2 := by constructor <;> intro h <;> linarith
    _ ↔ 0 ≤ r ^ 2 - p ^ 2 - q ^ 2 ∧ (2 * p * q) ^ 2 ≤ (r ^ 2 - p ^ 2 - q ^ 2) ^ 2 :=
        ⟨fun h => ⟨hpq.trans h, pow_le_pow_left₀ hpq h 2⟩, fun ⟨h0, h⟩ => le_of_sq_le_sq h h0⟩
    _ ↔ _ := by rw [show (2 * p * q) ^ 2 = 4 * p ^ 2 * q ^ 2 by ring]

/-- hit(n) compares weighted square roots (R235). -/
theorem sobelHit_iff_sqrt {n : Nat} (m2 lo hi : Nat) (h1 : 1 ≤ n) (h2 : n ≤ 255) :
    sobelHit m2 lo hi n = true ↔ (2 * (n : ℝ) - 1) * √hi + (511 - 2 * n) * √lo ≤ 510 * √m2 := by
  have hn1 : (1 : ℝ) ≤ n := by exact_mod_cast h1
  have hn2 : (n : ℝ) ≤ 255 := by exact_mod_cast h2
  have hp : 0 ≤ (2 * (n : ℝ) - 1) * √hi := mul_nonneg (by linarith) (Real.sqrt_nonneg _)
  have hq : 0 ≤ (511 - 2 * (n : ℝ)) * √lo := mul_nonneg (by linarith) (Real.sqrt_nonneg _)
  rw [add_le_iff_of_nonneg hp hq (by positivity)]
  simp only [mul_pow, Real.sq_sqrt (Nat.cast_nonneg _), sobelHit, Bool.and_eq_true, decide_eq_true_eq, ge_iff_le]
  norm_cast

theorem sqrt_sub_sqrt_pos {lo hi : Nat} (h : lo < hi) : 0 < √(hi : ℝ) - √lo :=
  sub_pos.mpr (Real.sqrt_lt_sqrt (Nat.cast_nonneg _) (Nat.cast_lt.mpr h))

/-- hit(n) holds for the n up to the rescaled magnitude plus 1/2 (R234, R235). -/
theorem sobelHit_iff {n m2 lo hi : Nat} (hlt : lo < hi) (h1 : 1 ≤ n) (h2 : n ≤ 255) :
    sobelHit m2 lo hi n = true ↔ (n : ℝ) ≤ 255 * (√(m2 : ℝ) - √lo) / (√hi - √lo) + 1 / 2 := by
  rw [sobelHit_iff_sqrt m2 lo hi h1 h2, ← sub_le_iff_le_add, le_div_iff₀ (sqrt_sub_sqrt_pos hlt)]
  constructor <;> intro h <;> linarith

theorem sobelNorm_flat (m2 m : Nat) : sobelNorm m2 m m = 0 := if_pos rfl

/-- The integer procedure is the rounded rescaling (R234). -/
theorem sobelNorm_eq_floor {m2 lo hi : Nat} (hlo : lo ≤ m2) (hhi : m2 ≤ hi) (hlt : lo < hi) :
    (sobelNorm m2 lo hi : Int) = ⌊255 * (√(m2 : ℝ) - √lo) / (√hi - √lo) + 1 / 2⌋ := by
  have hroot := sqrt_sub_sqrt_pos hlt
  have hroot0 : 0 ≤ √(m2 : ℝ) - √lo := sub_nonneg.mpr (Real.sqrt_le_sqrt (Nat.cast_le.mpr hlo))
  have hroot1 : √(m2 : ℝ) ≤ √hi := Real.sqrt_le_sqrt (Nat.cast_le.mpr hhi)
  have hratio : 255 * (√(m2 : ℝ) - √lo) / (√hi - √lo) ≤ 255 := by rw [div_le_iff₀ hroot]; linarith
  have h0 : 0 ≤ 255 * (√(m2 : ℝ) - √lo) / (√hi - √lo) + 1 / 2 := by positivity
  have hm : ⌊255 * (√(m2 : ℝ) - √lo) / (√hi - √lo) + 1 / 2⌋₊ < 256 :=
    (Nat.floor_lt h0).mpr (by push_cast; linarith)
  rw [sobelNorm, if_neg hlt.ne', ← Int.natCast_floor_eq_floor h0, count255_eq (Nat.le_of_lt_succ hm)
    fun n h1 h2 => (sobelHit_iff hlt h1 h2).trans (Nat.le_floor_iff h0).symm]

/-- Settles O57: the normalisation counts up to the real rescaling. -/
theorem sobelNormalisation : Obligations.SobelNormalisation :=
  fun m2 lo _ hlo hhi => ⟨sobelNorm_eq_floor hlo hhi, fun h => h ▸ sobelNorm_flat m2 lo⟩

/-! ## The magnitudes (R232, R233) -/

variable {s t : State}

/-- A gradient response is the correlation of the padded grayscale view with its kernel (R194, R232). -/
theorem gradient_eq (s : State) (b : Buf) (mode : Border) (kernel : List Int) (axis x y : Nat) :
    s.gradient b mode kernel axis x y = correlationSum 3 (fun n => kernel.getD n 0)
      (fun n => padded b.w b.h mode fun xi yi => s.grayAt b [x, y, n, axis] xi yi) x y :=
  neighbourSum_eq ..

/-- The magnitude of a pixel stands in the list at its row-major place. -/
theorem magnitudes_getElem? (s : State) {b : Buf} (mode : Border) {x y : Nat} (hx : x < b.w) (hy : y < b.h) :
    (s.magnitudes b mode)[y * b.w + x]? = some (s.squaredMagnitude b mode x y) := by
  have hlt : y * b.w + x < b.w * b.h := by simpa using raster_index_lt hx hy Nat.one_pos
  have hdiv : (y * b.w + x) / b.w = y := by
    rw [Nat.add_comm, Nat.add_mul_div_right _ _ (by omega), Nat.div_eq_of_lt hx, Nat.zero_add]
  rw [State.magnitudes, List.getElem?_map, List.getElem?_range hlt, Option.map_some, hdiv, Nat.mul_add_mod_of_lt hx]

/-- The squared magnitudes of all pixels of the source (R233). -/
def magnitudeSet (s : State) (mode : Border) : Set Nat :=
  {n | ∃ x < s.src.w, ∃ y < s.src.h, n = s.squaredMagnitude s.src mode x y}

theorem mem_magnitudes_iff (s : State) (mode : Border) {n : Nat} :
    n ∈ s.magnitudes s.src mode ↔ n ∈ magnitudeSet s mode := by
  constructor
  · intro h
    obtain ⟨i, hi, rfl⟩ := List.mem_map.mp h
    have hi := List.mem_range.mp hi
    exact ⟨_, Nat.mod_lt _ (Nat.pos_of_mul_pos_right (Nat.zero_lt_of_lt hi)), _, Nat.div_lt_of_lt_mul hi, rfl⟩
  · rintro ⟨x, hx, y, hy, rfl⟩
    exact List.mem_of_getElem? (magnitudes_getElem? s mode hx hy)

theorem magnitudes_ne_nil (hs : SrcOk s) (mode : Border) : s.magnitudes s.src mode ≠ [] :=
  List.ne_nil_of_mem ((mem_magnitudes_iff s mode).mpr ⟨0, hs.width_pos, 0, hs.height_pos, rfl⟩)

/-! ## The completion (R230) -/

/-- SOBEL leaves the magnitudes in the destination, normalised between the least and the greatest of them (R230). -/
theorem commitSobel_results (mode : Border) (hs : SrcOk s) (hd : DstOk s s.src.w s.src.h 1) :
    ∃ lo hi, IsLeast (magnitudeSet s mode) lo ∧ IsGreatest (magnitudeSet s mode) hi ∧
      HoldsBuffer s (commitSobel s.src mode s).succeed s.src.w s.src.h 1
        (fun x y _ => BitVec.ofNat 8 (sobelNorm (s.squaredMagnitude s.src mode x y) lo hi)) := by
  have hset : {n | n ∈ s.magnitudes s.src mode} = magnitudeSet s mode := Set.ext fun _ => mem_magnitudes_iff s mode
  have hne := magnitudes_ne_nil hs mode
  refine ⟨_, _, hset ▸ listMin_isLeast hne, hset ▸ listMax_isGreatest hne,
    produce_holds hs hd hs.width_le hs.height_le (.inl rfl) rfl rfl fun x hx y hy _ _ => ?_⟩
  rw [List.getD_eq_getElem?_getD, magnitudes_getElem? s mode hx hy, Option.getD_some]

/-- Settles O56: SOBEL commits the normalised magnitudes, and each gradient response is a correlation. -/
theorem sobelResult : Obligations.SobelResult := by
  intro s m hs hm hd g m2
  have hm2 : m2 = s.squaredMagnitude s.src m := by
    funext x y
    rw [State.squaredMagnitude, gradient_eq, gradient_eq]
    rfl
  obtain ⟨lo, hi, hleast, hgreatest, hholds⟩ := commitSobel_results m hs hd
  rw [hm2]
  exact ⟨_, lo, hi, execSobel_ok hs hm hd, rfl, hleast, hgreatest, hholds⟩

/-! ## Uniform images (R236) -/

/-- The gray value of a pixel of channel values v (R141). -/
def uniformGray (s : State) (v : Nat → Byte) : Nat :=
  if s.src.c = 1 then (v 0).toNat else gray (v 0).toNat (v 1).toNat (v 2).toNat

section
variable {v : Nat → Byte} {mode : Border} (hs : SrcOk s) (hv : ConstantSource s v)
include hs hv

theorem ConstantSource.grayAt (site : List Nat) {x y : Nat} (hx : x < s.src.w) (hy : y < s.src.h) :
    s.grayAt s.src site x y = uniformGray s v := by
  have hsample (site : List Nat) {c : Nat} (hc : c < s.src.c) := hv.sample hs site hx hy hc
  rw [State.grayAt, uniformGray]
  rcases hs.1 with hc | hc
  · rw [if_pos hc, if_pos hc, hsample _ (by omega)]
  · rw [if_neg (by omega), if_neg (by omega), hsample _ (by omega), hsample _ (by omega), hsample _ (by omega)]

/-- In the modes REFLECT and REPLICATE the padding has the same gray value (R192, R193). -/
theorem ConstantSource.paddedGray (hmode : mode = .reflect ∨ mode = .replicate) (site : List Nat) (x y : Int) :
    s.paddedGray s.src mode site x y = uniformGray s v := by
  obtain ⟨xi, hx⟩ := Option.isSome_iff_exists.mp (bidx_isSome hmode x s.src.w)
  obtain ⟨yi, hy⟩ := Option.isSome_iff_exists.mp (bidx_isSome hmode y s.src.h)
  rw [State.paddedGray, padded_of_some _ hx hy]
  exact hv.grayAt hs site (bidx_lt hs.width_pos hx) (bidx_lt hs.height_pos hy)

/-- The coefficients of each kernel sum to 0 (R231), so that equal samples have no gradient. -/
theorem ConstantSource.squaredMagnitude (hmode : mode = .reflect ∨ mode = .replicate) (x y : Nat) :
    s.squaredMagnitude s.src mode x y = 0 := by
  have hX : ∑ n ∈ Finset.range (3 * 3), sobelX.getD n 0 = 0 := by decide
  have hY : ∑ n ∈ Finset.range (3 * 3), sobelY.getD n 0 = 0 := by decide
  rw [State.squaredMagnitude, State.gradient, State.gradient,
    neighbourSum_constant _ fun n => hv.paddedGray hs hmode _,
    neighbourSum_constant _ fun n => hv.paddedGray hs hmode _, hX, hY]
  simp

theorem ConstantSource.eq_zero_of_mem_magnitudeSet (hmode : mode = .reflect ∨ mode = .replicate) {n : Nat}
    (hn : n ∈ magnitudeSet s mode) : n = 0 := by
  obtain ⟨x, -, y, -, rfl⟩ := hn
  exact hv.squaredMagnitude hs hmode x y

end

/-- Settles O58: the least and the greatest magnitude are both 0, and a flat gradient image is normalised to 0. -/
theorem sobelOfAUniformImage : Obligations.SobelOfAUniformImage := by
  intro s t v hborder ⟨hsrc, _, hd, _⟩ hv hexec n hn
  have hs := hsrc rfl
  obtain ⟨m, hm, hmode⟩ := exists_borderIs hborder
  cases (execSobel_ok hs hm (hd rfl)).symm.trans hexec
  obtain ⟨lo, hi, hleast, hgreatest, hbytes, -⟩ := commitSobel_results m hs (hd rfl)
  obtain ⟨x, hx, y, hy, c, hc, rfl⟩ := exists_raster_index (c := 1) (by rwa [Nat.mul_one])
  have hlo : lo = 0 := ConstantSource.eq_zero_of_mem_magnitudeSet hs hv hmode hleast.1
  have hhi : hi = 0 := ConstantSource.eq_zero_of_mem_magnitudeSet hs hv hmode hgreatest.1
  rw [← Nat.add_assoc, hbytes x hx y hy c hc]
  simp [hlo, hhi, sobelNorm_flat]

end Sys2Proof.Machine
end

section
/-! The resampler: the integer coordinates and weights of RESIZE_NN and RESIZE_BL are those of the rational source
coordinates (R250 to R254). -/

namespace Sys2Proof.Machine

/-! ## RESIZE_NN (R251) -/

/-- The index of the nearest source sample is the floor of the rational coordinate. -/
theorem floor_toNat_nearest (o n m : Nat) : ⌊(o * n / m : ℚ)⌋.toNat = o * n / m := by
  rw [Int.floor_toNat, ← Nat.cast_mul, Nat.floor_div_eq_div]

/-- Settles O59: both coordinates of the committed sample are floor divisions. -/
theorem resizeNnResult : Obligations.ResizeNnResult := fun _ hs hnw hnh hd =>
  ⟨_, execResizeNn_ok hs hnw hnh hd, rfl, produce_holds hs hd hnw.2 hnh.2 hs.1 rfl rfl fun ox _ oy _ c _ => by
    rw [floor_toNat_nearest, floor_toNat_nearest]⟩

/-! ## The coordinate mapping of RESIZE_BL (R253) -/

/-- The source coordinate of output coordinate o, for input length n and output length m: pixel centres are aligned. -/
def centreCoord (o n m : Nat) : ℚ := (o + 1 / 2) * n / m - 1 / 2

/-- The index of an axis of length n that is nearest to i. -/
def clampIndex (n : Nat) (i : Int) : Nat := (max 0 (min ((n : Int) - 1) i)).toNat

theorem toNat_clamp_eq_clampIndex {n : Nat} (hn : 1 ≤ n) (i : Int) : (clamp i 0 (n - 1)).toNat = clampIndex n i := by
  rw [clamp_eq_max_min i (by omega), clampIndex]

/-- The source coordinate over the denominator 2 * m that R252 gives it. -/
theorem centreCoord_eq_div (o n : Nat) {m : Nat} (hm : 1 ≤ m) :
    centreCoord o n m = (((2 * o + 1) * n - m : Int) : ℚ) / (2 * m : Int) := by
  have hm' : (m : ℚ) ≠ 0 := by positivity
  rw [centreCoord]
  push_cast
  field_simp

theorem fdiv_eq_floor_centreCoord (o n : Nat) {m : Nat} (hm : 1 ≤ m) :
    fdiv ((2 * o + 1) * n - m) (2 * m) = ⌊centreCoord o n m⌋ := by
  rw [centreCoord_eq_div o n hm, fdiv_eq_floor _ (by omega)]

theorem axisMap_i0 {n m : Nat} (hn : 1 ≤ n) (hm : 1 ≤ m) (o : Nat) :
    (axisMap o n m).i0 = clampIndex n ⌊centreCoord o n m⌋ := by
  rw [axisMap, fdiv_eq_floor_centreCoord o n hm, toNat_clamp_eq_clampIndex hn]

theorem axisMap_i1 {n m : Nat} (hn : 1 ≤ n) (hm : 1 ≤ m) (o : Nat) :
    (axisMap o n m).i1 = clampIndex n (⌊centreCoord o n m⌋ + 1) := by
  rw [axisMap, fdiv_eq_floor_centreCoord o n hm, toNat_clamp_eq_clampIndex hn (⌊centreCoord o n m⌋ + 1)]

/-- The weight of an axis: the distance of the source coordinate from its unclamped floor (R253). -/
def axisWeight (o n m : Nat) : ℚ := centreCoord o n m - ⌊centreCoord o n m⌋

theorem axisWeight_nonneg (o n m : Nat) : 0 ≤ axisWeight o n m := Int.fract_nonneg _

theorem axisWeight_le_one (o n m : Nat) : axisWeight o n m ≤ 1 := (Int.fract_lt_one _).le

/-- The weight numerator of R252 is the weight over the denominator 2 * m. -/
theorem axisMap_frac (o n : Nat) {m : Nat} (hm : 1 ≤ m) :
    ((axisMap o n m).frac : ℚ) = (2 * m : Int) * axisWeight o n m := by
  have hne : ((2 * m : Int) : ℚ) ≠ 0 := Int.cast_ne_zero.mpr (by omega)
  have hnum : (((2 * o + 1) * n - m : Int) : ℚ) = (2 * m : Int) * centreCoord o n m := by
    rw [centreCoord_eq_div o n hm, mul_div_cancel₀ _ hne]
  rw [axisMap, fdiv_eq_floor_centreCoord o n hm, Int.cast_sub, hnum, axisWeight]
  push_cast
  ring

/-! ## The blend (R254) -/

/-- The bilinear blend of four samples with the weights fx and fy. -/
def blend (fx fy s00 s10 s01 s11 : ℚ) : ℚ :=
  (1 - fy) * ((1 - fx) * s00 + fx * s10) + fy * ((1 - fx) * s01 + fx * s11)

/-- The blend numerator is the blend over the denominator dx * dy (R252). -/
theorem blendNum_eq_mul_blend {dx dy ix iy : Int} {fx fy : ℚ} (hx : (ix : ℚ) = dx * fx) (hy : (iy : ℚ) = dy * fy)
    (s00 s10 s01 s11 : Nat) :
    (blendNum dx dy ix iy s00 s10 s01 s11 : ℚ) = (dx * dy : Int) * blend fx fy s00 s10 s01 s11 := by
  rw [blendNum, blend]
  push_cast
  rw [hx, hy]
  ring

/-- A blend is a convex combination of convex combinations, so it stays where the four samples are. -/
theorem blend_mem_Icc {fx fy s00 s10 s01 s11 lo hi : ℚ} (hx0 : 0 ≤ fx) (hx1 : fx ≤ 1) (hy0 : 0 ≤ fy) (hy1 : fy ≤ 1)
    (h00 : s00 ∈ Set.Icc lo hi) (h10 : s10 ∈ Set.Icc lo hi) (h01 : s01 ∈ Set.Icc lo hi) (h11 : s11 ∈ Set.Icc lo hi) :
    blend fx fy s00 s10 s01 s11 ∈ Set.Icc lo hi := by
  have hmix {f a b : ℚ} (h0 : 0 ≤ f) (h1 : f ≤ 1) (ha : a ∈ Set.Icc lo hi) (hb : b ∈ Set.Icc lo hi) :
      (1 - f) * a + f * b ∈ Set.Icc lo hi :=
    convex_Icc lo hi ha hb (sub_nonneg.mpr h1) h0 (sub_add_cancel 1 f)
  exact hmix hy0 hy1 (hmix hx0 hx1 h00 h10) (hmix hx0 hx1 h01 h11)

/-- A value of the range of samples rounds to a sample, so the clamp of R254 never acts. -/
theorem sampleByte_floor_half_up {v : ℚ} (hv : v ∈ Set.Icc 0 255) : sampleByte ⌊v + 1 / 2⌋ = toSample ⌊v + 1 / 2⌋ := by
  obtain ⟨h0, h1⟩ := hv
  refine sampleByte_eq_toSample (Int.floor_nonneg.mpr (by linarith)) (Int.lt_add_one_iff.mp (Int.floor_lt.mpr ?_))
  push_cast
  linarith

theorem sample_mem_Icc (s : State) (b : Buf) (site : List Nat) (x y c : Nat) :
    (s.sample b site x y c : ℚ) ∈ Set.Icc 0 255 :=
  ⟨Nat.cast_nonneg _, by exact_mod_cast sample_le s b site x y c⟩

/-- The rational value of an output sample of RESIZE_BL (R253, R254). -/
def State.blendedSample (s : State) (b : Buf) (nw nh ox oy c : Nat) : ℚ :=
  let x := ⌊centreCoord ox b.w nw⌋
  let y := ⌊centreCoord oy b.h nh⌋
  let at' : Nat → Int → Int → ℚ := fun n i j => s.sample b [ox, oy, c, n] (clampIndex b.w i) (clampIndex b.h j) c
  blend (axisWeight ox b.w nw) (axisWeight oy b.h nh) (at' 0 x y) (at' 1 (x + 1) y) (at' 2 x (y + 1))
    (at' 3 (x + 1) (y + 1))

theorem blendedSample_mem_Icc (s : State) (b : Buf) (nw nh ox oy c : Nat) :
    s.blendedSample b nw nh ox oy c ∈ Set.Icc 0 255 :=
  blend_mem_Icc (axisWeight_nonneg ..) (axisWeight_le_one ..) (axisWeight_nonneg ..) (axisWeight_le_one ..)
    (sample_mem_Icc ..) (sample_mem_Icc ..) (sample_mem_Icc ..) (sample_mem_Icc ..)

/-- The integer procedure of R252 computes the blend, rounded half up. -/
theorem bilinear_eq_floor (s : State) {b : Buf} {nw nh : Nat} (hw : 1 ≤ b.w) (hh : 1 ≤ b.h) (hnw : 1 ≤ nw)
    (hnh : 1 ≤ nh) (ox oy c : Nat) : s.bilinear b nw nh ox oy c = ⌊s.blendedSample b nw nh ox oy c + 1 / 2⌋ := by
  have hpos : (0 : Int) < 2 * nw * (2 * nh) := by positivity
  have hne : ((2 * nw * (2 * nh) : Int) : ℚ) ≠ 0 := Int.cast_ne_zero.mpr hpos.ne'
  simp only [State.bilinear, axisMap_i0 hw hnw, axisMap_i1 hw hnw, axisMap_i0 hh hnh, axisMap_i1 hh hnh]
  rw [mul_assoc 2 (2 * (nw : Int)), fdiv_eq_round _ hpos,
    blendNum_eq_mul_blend (axisMap_frac ox b.w hnw) (axisMap_frac oy b.h hnh), mul_div_cancel_left₀ _ hne]
  rfl

/-- Settles O60: the rounded blend of samples is a sample. -/
theorem resizeBlResult : Obligations.ResizeBlResult := fun s hs hnw hnh hd =>
  ⟨_, execResizeBl_ok hs hnw hnh hd, rfl, produce_holds hs hd hnw.2 hnh.2 hs.1 rfl rfl fun ox _ oy _ c _ => by
    rw [bilinear_eq_floor s hs.width_pos hs.height_pos hnw.1 hnh.1,
      sampleByte_floor_half_up (blendedSample_mem_Icc ..)]
    rfl⟩

end Sys2Proof.Machine
end

section
/-! The error completion: an illegal word in flight, and a command whose first failing check decides (R275 to R277). -/

namespace Sys2Proof.Machine

/-- Where the engine moves and CMD holds no command, the step takes InvalidCommand and reads no other register (R276). -/
theorem step_of_decode_error {s : State} {e : DecodeError} (hm : s.engineMoves = true) (hd : decode s.cmd = .error e) :
    step s = .next (s.turn.takeError .invalidCommand) := by
  have hcmd : decode s.turn.cmd = .error e := hd
  rw [step, if_pos hm, runEngine, hcmd]

/-- Settles O6: the decoder refuses the word, and a turn leaves STATUS as it was. -/
theorem illegalWordRaisesInvalidCommand : Obligations.IllegalWordRaisesInvalidCommand := by
  intro s hm hword
  obtain ⟨e, hd⟩ := exists_decode_eq_error hword
  exact step_of_decode_error hm hd

/-- Settles O26: the command takes the error of the check, whose code is that of R271 kind by kind. -/
theorem firstFailingCheckDecidesTheError : Obligations.FirstFailingCheckDecidesTheError := by
  intro i s e h
  rw [exec_of_firstFailure h]
  cases e with
  | invalidBuffer | invalidParameter | unsupportedChannelCount => rfl
  | invalidCommand => exact h.elim

end Sys2Proof.Machine
end

section
/-! The host's step, a write dropped while busy, and reset whatever is in flight (R301, R302, R304, R311). -/

namespace Sys2Proof.Machine

variable {s : State}

/-! ## Dropped writes (R72, R304) -/

/-- A register is reached at no offset but its own. -/
theorem offset_of_place_eq_reg {off : Nat} {r : Reg} (h : place off = some (.reg r)) : off = r.offset := by
  unfold place at h
  split at h
  · cases h
  split at h
  · obtain ⟨q, hfind, hq⟩ := Option.map_eq_some_iff.mp h
    cases hq
    have hoff := List.find?_some hfind
    exact (beq_iff_eq.mp hoff).symm
  split at h
  · cases h
  split at h
  · cases h
  split at h <;> cases h

/-- While busy a write at any offset but those of STATUS and IRQ_EN is dropped, and answered as written. -/
theorem serve_writeBusy {off : Nat} {p : Place} (h : place off = some p) (h1 : p ≠ .reg .status)
    (h2 : p ≠ .reg .irqEn) (hb : s.status.busy = true) (v : Word) :
    serve (.regWrite 4 off v) s = s.drop.answer .written := by
  rw [serve_regWrite h]
  rcases writePlace_cases s v p with ⟨hp, -⟩ | ⟨hp, -⟩ | ⟨-, -, -, hw⟩ | ⟨-, -, hidle, -⟩
  · exact absurd hp h1
  · exact absurd hp h2
  · rw [hw]
  · rw [hb] at hidle; cases hidle

theorem serve_bmemWrite_busy {addr n : Nat} (hl : bmemLegal s addr n = true) (hb : s.status.busy = true) (v : Word) :
    serve (.bmemWrite addr n v) s = s.drop.answer .written := by
  simp [serve, hl, hb]

/-- Settles O21: the offset reaches neither STATUS nor IRQ_EN, which stand at their own offsets only. -/
theorem writesWhileBusyAreDropped : Obligations.WritesWhileBusyAreDropped := by
  refine fun s v hb => ⟨fun off hstatus hirqEn hmapped => ?_, fun addr n hn hal hin => ?_⟩
  · obtain ⟨p, hp⟩ := Option.ne_none_iff_exists'.mp hmapped
    have h1 : p ≠ .reg .status := fun h => hstatus (offset_of_place_eq_reg (h ▸ hp))
    have h2 : p ≠ .reg .irqEn := fun h => hirqEn (offset_of_place_eq_reg (h ▸ hp))
    exact serve_writeBusy hp h1 h2 hb v
  · exact serve_bmemWrite_busy (bmemLegal_iff.mpr ⟨hn, hal, hin⟩) hb v

/-! ## The host's step (R301, R311) -/

theorem step_of_host_moves (hm : s.engineMoves = false) : step s = runHost s := by
  rw [step, if_neg (by simp [hm])]

/-- With no command in flight it is never the engine that moves. -/
theorem engineMoves_of_idle (hb : s.status.busy = false) : s.engineMoves = false := by
  rw [State.engineMoves, hb, Bool.false_and]

/-- Settles O7: the host moves, with its next transaction or with none. -/
theorem stepServesTheHost : Obligations.StepServesTheHost := by
  refine ⟨fun s tx rest hm hinbox => ?_, fun s hb hinbox => ?_⟩
  · rw [step_of_host_moves hm, runHost, hinbox]
  · rw [step_of_host_moves (engineMoves_of_idle hb), runHost, hinbox]

/-! ## Reset (R301, R302) -/

/-- No register reads the parameter BMEM_BYTES or the environment, which are all that reset leaves. -/
theorem regWord_assertReset (s : State) (r : Reg) : s.assertReset.regWord r = State.reset.regWord r := by
  cases r <;> rfl

/-- Settles O12: reset leaves the registers and the memories of the reset state, of which O11 speaks. -/
theorem resetAbandonsACommand : Obligations.ResetAbandonsACommand := by
  obtain ⟨-, hirq, hmem⟩ := registersAfterReset
  exact fun s => ⟨regWord_assertReset s, hirq, rfl, hmem⟩

end Sys2Proof.Machine
end
